-- ==== Sys2Proof/Word.lean ====
section
/-! DEFINITION. The word types of the machine (00_scope.md R6; 10_state.md R20, R24, R27, R30; 46_keypad.md R182). -/

namespace Sys2Proof

/-- A memory byte or a general register: 8 bits (R20, R31). -/
abbrev Byte := BitVec 8

/-- A 16-bit quantity: an instruction word, `pc`, `I`, a stack entry (R24, R27, R30, R70). -/
abbrev Word := BitVec 16

/-- A 4-bit field of an instruction word (R71). -/
abbrev Nibble := BitVec 4

/-- A 12-bit immediate address `NNN` (R71). -/
abbrev Addr12 := BitVec 12

/-- The index of a general register, 0 to 15 (R20). -/
abbrev RegIdx := Fin 16

/-- The index of a key, 0 to 15 (R34). -/
abbrev KeyIdx := Fin 16

end Sys2Proof
end

