-- ==== Sys2Proof/Syntax.lean ====
section
/-! DEFINITION. The instruction set: one constructor for each of the 34 rows of 30_encoding.md R77. -/

namespace Sys2Proof

/-- An instruction with its operands. `x`, `y` select general registers, `nn`, `nnn`, `n` are the
immediates of R71; bits that a row ignores (R76) are no operand. -/
inductive Instr where
  /-- `00E0` clear-screen (R171). -/
  | cls
  /-- `00EE` return (R100). -/
  | ret
  /-- `1NNN` jump (R101). -/
  | jp (nnn : Addr12)
  /-- `2NNN` call (R102). -/
  | call (nnn : Addr12)
  /-- `3XNN` skip-if-equal-immediate (R110). -/
  | seImm (x : RegIdx) (nn : Byte)
  /-- `4XNN` skip-if-not-equal-immediate (R111). -/
  | sneImm (x : RegIdx) (nn : Byte)
  /-- `5XY0` skip-if-registers-equal (R112). -/
  | seReg (x y : RegIdx)
  /-- `6XNN` load-immediate (R120). -/
  | ldImm (x : RegIdx) (nn : Byte)
  /-- `7XNN` add-immediate (R121). -/
  | addImm (x : RegIdx) (nn : Byte)
  /-- `8XY0` load (R130). -/
  | ldReg (x y : RegIdx)
  /-- `8XY1` bitwise OR (R131). -/
  | orReg (x y : RegIdx)
  /-- `8XY2` bitwise AND (R132). -/
  | andReg (x y : RegIdx)
  /-- `8XY3` bitwise XOR (R133). -/
  | xorReg (x y : RegIdx)
  /-- `8XY4` add-with-carry (R134). -/
  | addReg (x y : RegIdx)
  /-- `8XY5` subtract-with-borrow (R135). -/
  | subReg (x y : RegIdx)
  /-- `8XY6` shift-right (R136). -/
  | shr (x y : RegIdx)
  /-- `8XY7` reverse-subtract (R137). -/
  | subnReg (x y : RegIdx)
  /-- `8XYE` shift-left (R138). -/
  | shl (x y : RegIdx)
  /-- `9XY0` skip-if-registers-not-equal (R113). -/
  | sneReg (x y : RegIdx)
  /-- `ANNN` set-index (R150). -/
  | ldI (nnn : Addr12)
  /-- `BNNN` jump-with-offset (R103). -/
  | jpV0 (nnn : Addr12)
  /-- `CXNN` random-and (R122). -/
  | rnd (x : RegIdx) (nn : Byte)
  /-- `DXYN` draw-sprite (R172). -/
  | drw (x y : RegIdx) (n : Nibble)
  /-- `EX9E` skip-if-key-pressed (R180). -/
  | skp (x : RegIdx)
  /-- `EXA1` skip-if-key-not-pressed (R181). -/
  | sknp (x : RegIdx)
  /-- `FX07` read-delay-timer (R190). -/
  | ldVxDt (x : RegIdx)
  /-- `FX0A` wait-for-key (R183). -/
  | ldVxK (x : RegIdx)
  /-- `FX15` set-delay-timer (R191). -/
  | ldDtVx (x : RegIdx)
  /-- `FX18` set-sound-timer (R192). -/
  | ldStVx (x : RegIdx)
  /-- `FX1E` add-to-index (R151). -/
  | addI (x : RegIdx)
  /-- `FX29` index-to-glyph (R152). -/
  | ldF (x : RegIdx)
  /-- `FX33` store-bcd (R153). -/
  | ldB (x : RegIdx)
  /-- `FX55` store-registers (R155). -/
  | storeRegs (x : RegIdx)
  /-- `FX65` load-registers (R156). -/
  | loadRegs (x : RegIdx)
  deriving DecidableEq, Repr

end Sys2Proof
end

