-- ==== Sys2Proof/WellFormed.lean ====
section
/-! DEFINITION. Well-formed instructions: every operand fits its field (30_encoding.md R71, R74).
The operand types of `Instr` already carry these bounds, so that no ill-formed `Instr` can be built
(`Sys2Proof.Instr.wellFormed_all` in Laws/PerInstr.lean); the checks are stated on plain numbers, where they refuse. -/

namespace Sys2Proof

/-- A register index fits the 4-bit field `X` or `Y`: every value 0 to 15 is valid (R74). -/
def fitsReg (r : Nat) : Bool := decide (r < 16)

/-- An immediate nibble fits the 4-bit field `N` (R71). -/
def fitsNibble (n : Nat) : Bool := decide (n < 16)

/-- An immediate byte fits the 8-bit field `NN` (R71). -/
def fitsByte (nn : Nat) : Bool := decide (nn < 256)

/-- An immediate address fits the 12-bit field `NNN` (R71). -/
def fitsAddr (nnn : Nat) : Bool := decide (nnn < 4096)

/-- Every operand of the instruction fits its field. -/
def Instr.wellFormed : Instr → Bool
  | .cls | .ret => true
  | .jp nnn | .call nnn | .ldI nnn | .jpV0 nnn => fitsAddr nnn.toNat
  | .seImm x nn | .sneImm x nn | .ldImm x nn | .addImm x nn | .rnd x nn =>
    fitsReg x.val && fitsByte nn.toNat
  | .seReg x y | .ldReg x y | .orReg x y | .andReg x y | .xorReg x y | .addReg x y | .subReg x y
  | .shr x y | .subnReg x y | .shl x y | .sneReg x y => fitsReg x.val && fitsReg y.val
  | .drw x y n => fitsReg x.val && fitsReg y.val && fitsNibble n.toNat
  | .skp x | .sknp x | .ldVxDt x | .ldVxK x | .ldDtVx x | .ldStVx x | .addI x | .ldF x | .ldB x
  | .storeRegs x | .loadRegs x => fitsReg x.val

end Sys2Proof
end

