-- ==== Sys2Proof/Config.lean ====
section
/-! DEFINITION. What an implementation fixes: the parameters of 00_scope.md R5, and the free values. -/

namespace Sys2Proof

/-- The two settings of the parameter `SHIFT_SOURCE` (R5, R141). -/
inductive ShiftSource where
  /-- The shifts read register `X`; the `Y` field is ignored. -/
  | regX
  /-- The shifts read register `Y`. -/
  | regY
  deriving DecidableEq, Repr, Inhabited

/-- The OPEN parameter `SHIFT_SOURCE` (R5, R141), fixed for the lifetime of the hardware.
DESIGN CHOICE (log entry 1), safe: it has no body, so a claim proved here holds for both settings. -/
opaque Config.shiftSource : ShiftSource

/-- The OPEN parameter `RANDOM` (R5, R122): the byte of the n-th draw, a free value.
DESIGN CHOICE (log entry 2), safe: it has no body, so a claim proved here holds for every byte. -/
opaque Config.random : Nat → Byte

/-- `GLYPH_BYTES` times `GLYPH_COUNT` (R5): the glyphs fill addresses 0x000 to 0x04F (10_state.md R40). -/
abbrev glyphSize : Nat := 80

/-- The OPEN parameter `GLYPH_ROM` (R5; 10_state.md R41): the bytes that Reset leaves in the low 80 addresses.
DESIGN CHOICE (log entry 3), safe: it has no body, so a claim proved here holds for every font; the spec's default is
`Machine.defaultGlyphRom`, which a claim about drawn digits takes as a premise. -/
opaque Config.glyphRom : Fin glyphSize → Byte

/-- `MEM_SIZE` (R5): addresses 0x000 to 0xFFF. -/
abbrev memSize : Nat := 4096

/-- `LOAD_BASE` (R5): the program load offset and the reset value of `pc`. -/
abbrev loadBase : Nat := 0x200

/-- The longest program that `LoadProgram` accepts (R206): the bytes from `LOAD_BASE` to the end of memory. -/
abbrev maxProgram : Nat := memSize - loadBase

/-- `STACK_DEPTH` (R5). -/
abbrev stackDepth : Nat := 16

/-- `FB_ROWS` (R5). -/
abbrev fbRows : Nat := 32

/-- `FB_COLS` (R5). -/
abbrev fbCols : Nat := 64

end Sys2Proof
end

