-- ==== Sys2Proof/Machine/State.lean ====
section
/-! DEFINITION. The state of the machine, its stops, and the state after reset (10_state.md). -/

namespace Sys2Proof.Machine

/-- The keypad's blocking latch (10_state.md R35). -/
inductive Latch where
  /-- Not waiting. -/
  | notWaiting
  /-- Waiting for a key press; its index goes to register `r`. -/
  | waiting (r : RegIdx)
  deriving DecidableEq, Repr

/-- Memory as the (address, byte) pairs that differ from the reset contents, addresses strictly rising
(10_state.md R31; log entry 17). -/
abbrev Memory := List Host.Cell

/-- The framebuffer: 32 rows of 64 cells (10_state.md R32). -/
abbrev Framebuffer := Vector (Vector Bool fbCols) fbRows

/-- The whole state of the machine (10_state.md). -/
structure State where
  /-- The general registers `x[0]` to `x[15]` (R20); `x[15]` is the flag register (R21). -/
  regs : Vector Byte 16
  /-- The index register `I` (R27). -/
  idx : Word
  /-- The program counter (R24). -/
  pc : Word
  /-- The stack pointer, 0 to 16, the number of entries in use (R30). -/
  sp : Fin 17
  /-- The call stack (R30). -/
  stack : Vector Word 16
  /-- The delay timer (R28). -/
  dt : Byte
  /-- The sound timer (R29). -/
  st : Byte
  /-- Memory (R31). -/
  mem : Memory
  /-- The framebuffer cells, row first (R32). -/
  fb : Framebuffer
  /-- The framebuffer's "changed" flag (R33). -/
  fbChanged : Bool
  /-- The keys, true when pressed (R34). -/
  keys : Vector Bool 16
  /-- The keypad latch (R35). -/
  latch : Latch
  /-- THE MODEL'S OWN field: how many random bytes have been drawn (42_immediate_and_random.md R122; log entry 2).
  It only selects the next free value `Config.random draws`. -/
  draws : Nat
  deriving DecidableEq, Repr

/-- The errors of 60_exceptions.md R241 and R244: the closed enumeration that R242 asks for. Each ends the
operation that raises it; safe, because the spec itself makes them terminal (R216, R248). -/
inductive Fault where
  /-- Raised by the fetch when `pc >= 4095` (50_step_and_interfaces.md R202); safe. -/
  | fetchOutOfRange (pc : Word)
  /-- Raised by call with `sp = 16` (40_control_transfer.md R102); safe. -/
  | stackOverflow
  /-- Raised by return with `sp = 0` (40_control_transfer.md R100); safe. -/
  | stackUnderflow
  /-- Raised by draw-sprite, store-bcd, store-registers and load-registers when the access range passes 4095,
  with the lowest offending address (20_memory.md R55); safe. -/
  | memoryOutOfRange (addr : Nat)
  /-- Raised by the two key skips when the register holds more than 15 (46_keypad.md R182); safe. -/
  | keypadIndexOutOfRange (value : Byte)
  /-- Raised by the host operation LoadProgram for more than 3584 bytes (50_step_and_interfaces.md R206); never by a
  Step; safe. -/
  | programTooLarge
  deriving DecidableEq, Repr

/-- What the model refuses. -/
inductive Refusal where
  /-- Raised by an arm of `exec` whose instruction has no meaning yet; no arm does; safe. -/
  | notModelled (mnemonic : String)
  /-- Raised by `hostOp` when a Step is requested after a fatal error with no Reset between: the spec defines no
  effect (50_step_and_interfaces.md R216; 93_implementation_defined.md U7; log entry 14); never by `exec` or `step`; safe. -/
  | stepAfterFatal
  deriving DecidableEq, Repr

/-- The outcome of an instruction. -/
abbrev Result := Host.Outcome State Fault Refusal

/-- The state right after reset (10_state.md R37; 70_reset_and_hazards.md R270, R271). -/
def State.reset : State where
  regs := Vector.replicate 16 0
  idx := 0
  pc := 0x200
  sp := 0
  stack := Vector.replicate 16 0
  dt := 0
  st := 0
  mem := []
  fb := Vector.replicate fbRows (Vector.replicate fbCols false)
  fbChanged := true
  keys := Vector.replicate 16 false
  latch := .notWaiting
  draws := 0

end Sys2Proof.Machine
end

