-- ==== Sys2Proof/Machine/Ops.lean ====
section
/-! DEFINITION. The named operations over memory, registers, stack, framebuffer and keypad, and raising an error. -/

namespace Sys2Proof.Machine

/-! ### Memory (20_memory.md) -/

/-- The 80 bytes of the spec's default font, five for each digit (10_state.md R41, general knowledge of the spec's; log
entry 3). No operation of the machine uses them. -/
def defaultGlyphBytes : List Byte :=
  [0xF0, 0x90, 0x90, 0x90, 0xF0, 0x20, 0x60, 0x20, 0x20, 0x70,
   0xF0, 0x10, 0xF0, 0x80, 0xF0, 0xF0, 0x10, 0xF0, 0x10, 0xF0,
   0x90, 0x90, 0xF0, 0x10, 0x10, 0xF0, 0x80, 0xF0, 0x10, 0xF0,
   0xF0, 0x80, 0xF0, 0x90, 0xF0, 0xF0, 0x10, 0x20, 0x40, 0x40] ++
  [0xF0, 0x90, 0xF0, 0x90, 0xF0, 0xF0, 0x90, 0xF0, 0x10, 0xF0,
   0xF0, 0x90, 0xF0, 0x90, 0x90, 0xE0, 0x90, 0xE0, 0x90, 0xE0,
   0xF0, 0x80, 0x80, 0x80, 0xF0, 0xE0, 0x90, 0x90, 0x90, 0xE0,
   0xF0, 0x80, 0xF0, 0x80, 0xF0, 0xF0, 0x80, 0xF0, 0x80, 0x80]

/-- The spec's default of the OPEN parameter `GLYPH_ROM` (10_state.md R41; decision D14, log entry 3). A claim that needs this
font takes `Config.glyphRom = defaultGlyphRom` as a premise. -/
def defaultGlyphRom (a : Fin glyphSize) : Byte := defaultGlyphBytes.getD a.val 0

/-- The content of memory after Reset for a given `GLYPH_ROM`: its bytes in the low 80 addresses and 0 everywhere else
(10_state.md R31, R40). -/
def memContent (rom : Fin glyphSize → Byte) (a : Nat) : Byte := if h : a < glyphSize then rom ⟨a, h⟩ else 0

/-- What an address reads as when nothing is listed for it: its content after Reset, for the hardware's own `GLYPH_ROM`
(10_state.md R31, R40, R41; log entry 3). -/
def memReset (a : Nat) : Byte := memContent Config.glyphRom a

/-- The byte at an address (`MemRead(addr, 1)`, 00_scope.md R9). -/
def Memory.read : Memory → Nat → Byte
  | [], a => memReset a
  | (k, v) :: rest, a => if k = a then v else Memory.read rest a

/-- List a cell before the first cell with a higher address. -/
def Memory.insert (a : Nat) (v : Byte) : Memory → Memory
  | [] => [(a, v)]
  | (k, w) :: rest => if a < k then (a, v) :: (k, w) :: rest else (k, w) :: Memory.insert a v rest

/-- Write one byte (`MemWrite(addr, 1, v)`, 00_scope.md R9), keeping the canonical form. -/
def Memory.write (m : Memory) (a : Nat) (v : Byte) : Memory :=
  if v = memReset a then m.filter (fun c => c.1 != a)
  else Memory.insert a v (m.filter (fun c => c.1 != a))

/-- Write bytes at ascending addresses. -/
def Memory.writeList (m : Memory) (a : Nat) : List Byte → Memory
  | [] => m
  | b :: bs => Memory.writeList (Memory.write m a b) (a + 1) bs

/-- Read `n` bytes at ascending addresses. -/
def Memory.readList (m : Memory) (a : Nat) : Nat → List Byte
  | 0 => []
  | n + 1 => Memory.read m a :: Memory.readList m (a + 1) n

/-- The canonical form: addresses strictly rising and below 4096, and no cell equal to what an unlisted address
reads as. -/
abbrev Memory.wf (m : Memory) : Prop :=
  m.Pairwise (fun c d => c.1 < d.1) ∧ ∀ c ∈ m, c.1 < memSize ∧ c.2 ≠ memReset c.1

/-! ### Reading and writing the state -/

/-- Read a general register. -/
def State.reg (s : State) (r : RegIdx) : Byte := s.regs[r]

/-- Write a general register. -/
def State.setReg (s : State) (r : RegIdx) (v : Byte) : State := { s with regs := s.regs.set r v }

/-- Write the whole register file. -/
def State.setRegs (s : State) (v : Vector Byte 16) : State := { s with regs := v }

/-- Write the index register. -/
def State.setIdx (s : State) (v : Word) : State := { s with idx := v }

/-- Write the program counter. -/
def State.setPc (s : State) (v : Word) : State := { s with pc := v }

/-- Write the stack pointer and the stack. -/
def State.setStack (s : State) (p : Fin 17) (v : Vector Word 16) : State := { s with sp := p, stack := v }

/-- Write the delay timer. -/
def State.setDt (s : State) (v : Byte) : State := { s with dt := v }

/-- Write the sound timer. -/
def State.setSt (s : State) (v : Byte) : State := { s with st := v }

/-- Write memory as a whole. -/
def State.setMem (s : State) (m : Memory) : State := { s with mem := m }

/-- Write the framebuffer cells. -/
def State.setFb (s : State) (v : Framebuffer) : State := { s with fb := v }

/-- Write the "changed" flag. -/
def State.setFbChanged (s : State) (b : Bool) : State := { s with fbChanged := b }

/-- Write one key's state. -/
def State.setKey (s : State) (k : KeyIdx) (b : Bool) : State := { s with keys := s.keys.set k b }

/-- Write the latch. -/
def State.setLatch (s : State) (l : Latch) : State := { s with latch := l }

/-- Count one more random byte drawn (log entry 2). -/
def State.setDraws (s : State) (n : Nat) : State := { s with draws := n }

/-- Read one byte of memory. -/
def State.byte (s : State) (a : Nat) : Byte := Memory.read s.mem a

/-- Read one key's state, true when pressed (46_keypad.md R180). -/
def State.key (s : State) (k : KeyIdx) : Bool := s.keys[k]

/-- Read one framebuffer cell, row first (45_display.md R170). -/
def State.cell (s : State) (r : Fin fbRows) (c : Fin fbCols) : Bool := (s.fb[r])[c]

/-! ### The program counter -/

/-- Advance `pc` by 2 modulo 2^16 (50_step_and_interfaces.md R203; 10_state.md R25). -/
def State.advance (s : State) : State := s.setPc (s.pc + 2)

/-- A skip, taken when the condition holds: `pc` advances by 2 more (41_skips.md R114). -/
def State.skipIf (s : State) (taken : Bool) : State := if taken then s.advance else s

/-! ### Raising an error -/

/-- `raise e`: the operation ends with the fatal error `e` (00_scope.md R9; 60_exceptions.md R241, R247).
Nothing is saved and control goes nowhere in the program; there is no return from it (R248). -/
def raise (e : Fault) : Result := .fault e

/-- The state a handler's error leaves: the one the handler began with (`pc = a + 2`) and nothing else
(60_exceptions.md R241, R247; the spec's decision D11, log entry 9). -/
def faultState (begun : State) : State := begun

/-- The bounds check of a data access of `len` bytes at `base`, made before any byte is touched: the addresses are
integers with no wrap, and an empty range never fails (20_memory.md R55, R56; 44_index_and_memory.md R154). -/
def guardRange (base : Word) (len : Nat) (k : Result) : Result :=
  if 0 < len ∧ memSize < base.toNat + len then raise (.memoryOutOfRange (max base.toNat memSize)) else k

/-! ### The call stack -/

/-- Push a return address; a full stack overflows and is left as it was (40_control_transfer.md R102). -/
def State.push (s : State) (v : Word) (k : State → Result) : Result :=
  if h : s.sp.val < stackDepth then
    k (s.setStack ⟨s.sp.val + 1, by simp only [stackDepth] at h; omega⟩ (s.stack.set s.sp.val v))
  else raise .stackOverflow

/-- Pop a return address; the entry keeps its value (40_control_transfer.md R100; 10_state.md R30). -/
def State.pop (s : State) (k : Word → State → Result) : Result :=
  if h : 0 < s.sp.val then
    k (s.stack[s.sp.val - 1]'(by omega)) (s.setStack ⟨s.sp.val - 1, by omega⟩ s.stack)
  else raise .stackUnderflow

/-! ### Fetch (50_step_and_interfaces.md R202) -/

/-- The word at an address, big-endian (20_memory.md R52). -/
def State.word (s : State) (a : Nat) : Word := wordOfBytes (s.byte a) (s.byte (a + 1))

/-- Fetch the word at `pc`; it fails when `pc >= 4095`. -/
def fetch (s : State) : Except Fault Word :=
  if s.pc.toNat < memSize - 1 then .ok (s.word s.pc.toNat) else .error (.fetchOutOfRange s.pc)

end Sys2Proof.Machine
end

