-- ==== Sys2Proof/Machine/Operands.lean ====
section
/-! DEFINITION. Operand forms: the shift source, the key index, glyph addresses, decimal digits, sprites. -/

namespace Sys2Proof.Machine

/-- The operand of the two shifts, as the parameter `SHIFT_SOURCE` says (43_register_alu.md R141). -/
def shiftOperand (src : ShiftSource) (x y : RegIdx) (s : State) : Byte :=
  match src with
  | .regX => s.reg x
  | .regY => s.reg y

/-- The key whose index register `x` holds; a value above 15 is an error and is not masked (46_keypad.md R182). -/
def withKey (x : RegIdx) (s : State) (k : KeyIdx → Result) : Result :=
  if h : (s.reg x).toNat < 16 then k ⟨(s.reg x).toNat, h⟩
  else raise (.keypadIndexOutOfRange (s.reg x))

/-- The glyph address of a register value: five times the whole 8-bit value (44_index_and_memory.md R152). -/
def glyphAddress (v : Byte) : Word := v.setWidth 16 * 5

/-- The decimal digits of a byte, hundreds first, one per byte (44_index_and_memory.md R153). -/
def bcdDigits (v : Byte) : List Byte :=
  [BitVec.ofNat 8 (v.toNat / 100), BitVec.ofNat 8 (v.toNat / 10 % 10), BitVec.ofNat 8 (v.toNat % 10)]

/-- The registers 0 to `x` in ascending order (44_index_and_memory.md R155). -/
def regList (x : RegIdx) (s : State) : List Byte := s.regs.toList.take (x.val + 1)

/-- The register file with registers 0 to `x` replaced by the bytes at `base` up (44_index_and_memory.md R156). -/
def loadedRegs (x : RegIdx) (base : Nat) (s : State) : Vector Byte 16 :=
  Vector.ofFn fun r => if r ≤ x then s.byte (base + r.val) else s.reg r

/-- The framebuffer row reached from a start row: the integer sum modulo 32 (45_display.md R172). -/
def wrapRow (n : Nat) : Fin fbRows := ⟨n % 32, Nat.mod_lt _ (by decide)⟩

/-- The framebuffer column reached from a start column: the integer sum modulo 64 (45_display.md R172). -/
def wrapCol (n : Nat) : Fin fbCols := ⟨n % 64, Nat.mod_lt _ (by decide)⟩

/-- Sprite column `j` of a sprite row is bit `7 - j` of its byte (45_display.md R170; the spec's decision D13,
log entry 11). -/
def spriteBit (row : Byte) (j : Nat) : Bool := row.getLsbD (7 - j)

/-- Flip one cell and record a collision if it was 1 (45_display.md R172). -/
def flipCell (acc : Framebuffer × Bool) (r : Fin fbRows) (c : Fin fbCols) : Framebuffer × Bool :=
  let old := (acc.1[r])[c]
  (acc.1.set r ((acc.1[r]).set c (!old)), acc.2 || old)

/-- Draw the columns `j` to 7 of one sprite row, `k` of them left (45_display.md R172). -/
def drawColumns (row : Byte) (r : Fin fbRows) (px j : Nat) : Nat → Framebuffer × Bool → Framebuffer × Bool
  | 0, acc => acc
  | k + 1, acc =>
    drawColumns row r px (j + 1) k (if spriteBit row j then flipCell acc r (wrapCol (px + j)) else acc)

/-- Draw the rows of a sprite from row number `i` on (45_display.md R172). -/
def drawRows (px py i : Nat) : List Byte → Framebuffer × Bool → Framebuffer × Bool
  | [], acc => acc
  | row :: rows, acc => drawRows px py (i + 1) rows (drawColumns row (wrapRow (py + i)) px 0 8 acc)

/-- XOR-draw a sprite at column `px`, row `py`: the new cells, and whether a cell went from 1 to 0
(45_display.md R172). -/
def drawSprite (rows : List Byte) (px py : Nat) (fb : Framebuffer) : Framebuffer × Bool :=
  drawRows px py 0 rows (fb, false)

end Sys2Proof.Machine
end

