-- ==== Sys2Proof/Machine/Flags.lean ====
section
/-! DEFINITION. The flag computations and the order of result and flag writes (10_state.md R26; 43_register_alu.md R139, R140). -/

namespace Sys2Proof.Machine

/-- The flag register is `x[15]` (10_state.md R21). -/
abbrev flagReg : RegIdx := 15

/-- A flag value as a byte, 0 or 1 (10_state.md R26). -/
def flagByte (b : Bool) : Byte := if b then 1 else 0

/-- Carry: the mathematical sum exceeds 255 (43_register_alu.md R134, R140). -/
def carryOut (a b : Byte) : Bool := decide (255 < a.toNat + b.toNat)

/-- The inverted borrow of `a - b`: no borrow when the minuend is at least the subtrahend (43_register_alu.md R140). -/
def noBorrow (a b : Byte) : Bool := decide (b.toNat ≤ a.toNat)

/-- The bit a shift right moves out: bit 0 (43_register_alu.md R136). -/
def outRight (a : Byte) : Bool := a.getLsbD 0

/-- The bit a shift left moves out: bit 7 (43_register_alu.md R138). -/
def outLeft (a : Byte) : Bool := a.getLsbD 7

/-- Write the flag register. -/
def State.setFlag (s : State) (b : Bool) : State := s.setReg flagReg (flagByte b)

/-- Write the result and then the flag: with `X = 15` the flag stays (43_register_alu.md R139; the spec's decision D6,
log entry 7). -/
def State.writeResultFlag (s : State) (x : RegIdx) (v : Byte) (flag : Bool) : State :=
  (s.setReg x v).setFlag flag

/-- Write the flag and then the result: with `X = 15` the result stays (43_register_alu.md R139; the spec's decision D6,
log entry 7). -/
def State.writeFlagResult (s : State) (x : RegIdx) (v : Byte) (flag : Bool) : State :=
  (s.setFlag flag).setReg x v

end Sys2Proof.Machine
end

