-- ==== Sys2Proof/Machine/Alu.lean ====
section
/-! DEFINITION. Register-to-register operations (43_register_alu.md). -/

namespace Sys2Proof.Machine

/-- load (R130). -/
def execLdReg (x y : RegIdx) (s : State) : Result := .next (s.setReg x (s.reg y))

/-- bitwise OR (R131). -/
def execOrReg (x y : RegIdx) (s : State) : Result := .next (s.setReg x (s.reg x ||| s.reg y))

/-- AND (R132). -/
def execAndReg (x y : RegIdx) (s : State) : Result := .next (s.setReg x (s.reg x &&& s.reg y))

/-- XOR (R133). -/
def execXorReg (x y : RegIdx) (s : State) : Result := .next (s.setReg x (s.reg x ^^^ s.reg y))

/-- add-with-carry (R134). -/
def execAddReg (x y : RegIdx) (s : State) : Result :=
  .next (s.writeResultFlag x (s.reg x + s.reg y) (carryOut (s.reg x) (s.reg y)))

/-- subtract-with-borrow (R135). -/
def execSubReg (x y : RegIdx) (s : State) : Result :=
  .next (s.writeResultFlag x (s.reg x - s.reg y) (noBorrow (s.reg x) (s.reg y)))

/-- reverse-subtract (R137). -/
def execSubnReg (x y : RegIdx) (s : State) : Result :=
  .next (s.writeResultFlag x (s.reg y - s.reg x) (noBorrow (s.reg y) (s.reg x)))

/-- A shift right by one into register `x`, for either setting of `SHIFT_SOURCE` (R136, R141). -/
def shiftRight (src : ShiftSource) (x y : RegIdx) (s : State) : State :=
  s.writeFlagResult x (shiftOperand src x y s >>> 1) (outRight (shiftOperand src x y s))

/-- A shift left by one into register `x`, for either setting of `SHIFT_SOURCE` (R138, R141). -/
def shiftLeft (src : ShiftSource) (x y : RegIdx) (s : State) : State :=
  s.writeFlagResult x (shiftOperand src x y s <<< 1) (outLeft (shiftOperand src x y s))

/-- shift-right (R136). -/
def execShr (x y : RegIdx) (s : State) : Result := .next (shiftRight Config.shiftSource x y s)

/-- shift-left (R138). -/
def execShl (x y : RegIdx) (s : State) : Result := .next (shiftLeft Config.shiftSource x y s)

end Sys2Proof.Machine
end

