-- ==== Sys2Proof/Machine/Control.lean ====
section
/-! DEFINITION. Control transfer: return, jump, call, jump-with-offset (40_control_transfer.md). -/

namespace Sys2Proof.Machine

/-- return (R100). -/
def execRet (s : State) : Result := s.pop fun target t => .next (t.setPc target)

/-- jump (R101). -/
def execJp (nnn : Addr12) (s : State) : Result := .next (s.setPc (nnn.setWidth 16))

/-- call: the already advanced `pc` is pushed (R102). -/
def execCall (nnn : Addr12) (s : State) : Result := s.push s.pc fun t => .next (t.setPc (nnn.setWidth 16))

/-- jump-with-offset: a 16-bit sum, not reduced modulo 4096 (R103). -/
def execJpV0 (nnn : Addr12) (s : State) : Result :=
  .next (s.setPc ((s.reg 0).setWidth 16 + nnn.setWidth 16))

end Sys2Proof.Machine
end

