-- ==== Sys2Proof/Machine/Display.lean ====
section
/-! DEFINITION. Framebuffer instructions (45_display.md). -/

namespace Sys2Proof.Machine

/-- The blank framebuffer. -/
def blankFb : Framebuffer := Vector.replicate fbRows (Vector.replicate fbCols false)

/-- clear-screen (R171). -/
def execCls (s : State) : Result := .next ((s.setFb blankFb).setFbChanged true)

/-- The state after drawing the given sprite rows at the coordinates in registers `x` and `y` (R172). -/
def drawAt (x y : RegIdx) (rows : List Byte) (s : State) : State :=
  let drawn := drawSprite rows (s.reg x).toNat (s.reg y).toNat s.fb
  ((s.setFb drawn.1).setFbChanged true).setFlag drawn.2

/-- draw-sprite: the sprite bytes are read before any cell is written (R172). -/
def execDrw (x y : RegIdx) (n : Nibble) (s : State) : Result :=
  guardRange s.idx n.toNat (.next (drawAt x y (Memory.readList s.mem s.idx.toNat n.toNat) s))

end Sys2Proof.Machine
end

