-- ==== Sys2Proof/Machine/Immediate.lean ====
section
/-! DEFINITION. Immediate load, immediate add, random (42_immediate_and_random.md). -/

namespace Sys2Proof.Machine

/-- load-immediate (R120). -/
def execLdImm (x : RegIdx) (nn : Byte) (s : State) : Result := .next (s.setReg x nn)

/-- add-immediate: wraps modulo 256, no flag (R121). -/
def execAddImm (x : RegIdx) (nn : Byte) (s : State) : Result := .next (s.setReg x (s.reg x + nn))

/-- random-and: a fresh free byte ANDed with the immediate (R122; log entry 2). -/
def execRnd (x : RegIdx) (nn : Byte) (s : State) : Result :=
  .next ((s.setReg x (Config.random s.draws &&& nn)).setDraws (s.draws + 1))

end Sys2Proof.Machine
end

