-- ==== Sys2Proof/Machine/Index.lean ====
section
/-! DEFINITION. The index register, loads and stores (44_index_and_memory.md). -/

namespace Sys2Proof.Machine

/-- set-index (R150). -/
def execLdI (nnn : Addr12) (s : State) : Result := .next (s.setIdx (nnn.setWidth 16))

/-- add-to-index: wraps modulo 2^16, no flag, no error (R151). -/
def execAddI (x : RegIdx) (s : State) : Result := .next (s.setIdx (s.idx + (s.reg x).setWidth 16))

/-- index-to-glyph (R152). -/
def execLdF (x : RegIdx) (s : State) : Result := .next (s.setIdx (glyphAddress (s.reg x)))

/-- Store bytes at `I` up; the whole range is checked before any byte is written (R154; 20_memory.md R55). -/
def storeAtIndex (bytes : List Byte) (s : State) : Result :=
  guardRange s.idx bytes.length (.next (s.setMem (Memory.writeList s.mem s.idx.toNat bytes)))

/-- store-bcd (R153). -/
def execLdB (x : RegIdx) (s : State) : Result := storeAtIndex (bcdDigits (s.reg x)) s

/-- store-registers: `I` is unchanged (R155). -/
def execStoreRegs (x : RegIdx) (s : State) : Result := storeAtIndex (regList x s) s

/-- load-registers: `I` is unchanged (R156). -/
def execLoadRegs (x : RegIdx) (s : State) : Result :=
  guardRange s.idx (x.val + 1) (.next (s.setRegs (loadedRegs x s.idx.toNat s)))

end Sys2Proof.Machine
end

