-- ==== Sys2Proof/Machine/Keypad.lean ====
section
/-! DEFINITION. Keypad instructions (46_keypad.md). -/

namespace Sys2Proof.Machine

/-- skip-if-key-pressed (R180). -/
def execSkp (x : RegIdx) (s : State) : Result := withKey x s fun k => .next (s.skipIf (s.key k))

/-- skip-if-key-not-pressed (R181). -/
def execSknp (x : RegIdx) (s : State) : Result := withKey x s fun k => .next (s.skipIf (!s.key k))

/-- wait-for-key: the latch is set and `pc` goes back to this instruction (R183; the spec's decision D4, log entry 6). -/
def execLdVxK (x : RegIdx) (s : State) : Result := .next ((s.setLatch (.waiting x)).setPc (s.pc - 2))

end Sys2Proof.Machine
end

