-- ==== Sys2Proof/Machine/Cycle.lean ====
section
/-! DEFINITION. The step cycle with its result (50_step_and_interfaces.md R201 to R204, R209). -/

namespace Sys2Proof.Machine

/-- What a Step returns to the host (R209). -/
inductive StepResult where
  /-- An instruction ran to completion. -/
  | executed
  /-- The latch was waiting; nothing happened. -/
  | blocked
  /-- The word matched no instruction; only `pc` advanced, and the word is reported (R204; 60_exceptions.md R243). -/
  | unknown (w : Word)
  /-- A fatal error, the terminal condition. -/
  | fatal (e : Fault)
  deriving DecidableEq, Repr

/-- The Step operation: its result and the state it leaves, in the order latch test, fetch, decode, advance, dispatch
(R201 to R204; 60_exceptions.md R246). `error` would carry an instruction refused by `exec`; no instruction is. -/
def stepOp (s : State) : Except Refusal (StepResult × State) :=
  match s.latch with
  | .waiting _ => .ok (.blocked, s)
  | .notWaiting =>
    match fetch s with
    | .error e => .ok (.fatal e, s)
    | .ok w =>
      match decodeWord w with
      | none => .ok (.unknown w, s.advance)
      | some i =>
        match exec i s.advance with
        | .next t => .ok (.executed, t)
        | .fault e => .ok (.fatal e, faultState s.advance)
        | .refused r => .error r

/-- A Step as the host's interface has it: a fatal result is a fault, every other result a next state
(log entry 16). -/
def stepOutcome : Except Refusal (StepResult × State) → Result
  | .error r => .refused r
  | .ok (.fatal e, _) => raise e
  | .ok (_, t) => .next t

/-- The state with the word of the opcode table placed where the next Step fetches, and a waiting latch released, since a
waiting machine fetches nothing (log entry 18). -/
def placeWord (s : State) (w : Word) : State :=
  (s.setMem (Memory.writeList s.mem s.pc.toNat [highByte w, lowByte w])).setLatch .notWaiting

end Sys2Proof.Machine
end

