-- ==== Sys2Proof/Machine/Step.lean ====
section
/-! DEFINITION. One step of the machine: the Step operation (50_step_and_interfaces.md R201 to R204). -/

namespace Sys2Proof.Machine

/-- One Step. A blocked Step and an unknown word give a next state; a fatal error is a fault. -/
def step (s : State) : Host.Outcome State Fault Refusal := stepOutcome (stepOp s)

/-- The state with the word that the opcode table writes as the `nbits`-bit number `w` placed where `step` fetches its
next instruction (log entry 18). -/
def State.withFetchWord (s : State) (nbits w : Nat) : State := placeWord s (tableWord nbits w)

end Sys2Proof.Machine
end

