-- ==== Sys2Proof/Machine/HostOps.lean ====
section
/-! DEFINITION. The operations a host may request besides Step, and the machine as a labelled transition system over all
of them (50_step_and_interfaces.md R200, R205 to R216). -/

namespace Sys2Proof.Machine

/-- The two key transitions (R208). -/
inductive KeyTransition where
  | pressed
  | released
  deriving DecidableEq, Repr

/-- One timer's decrement: by 1, staying at 0 (R207). -/
def tickDown (t : Byte) : Byte := if t = 0 then 0 else t - 1

/-- `TimerTick`: one tick acts on both timers and on nothing else (R207). -/
def timerTick (s : State) : State := (s.setDt (tickDown s.dt)).setSt (tickDown s.st)

/-- A key press that resolves a wait for register `r` (46_keypad.md R184). -/
def resolveWait (r : RegIdx) (k : KeyIdx) (s : State) : State :=
  (((s.setKey k true).setReg r (BitVec.ofNat 8 k.val)).setLatch .notWaiting).setPc (s.pc + 2)

/-- `KeyEvent(k, t)` (R208). The index is a 4-bit port: no other value can be expressed. -/
def keyEvent (k : KeyIdx) (t : KeyTransition) (s : State) : State :=
  match t with
  | .released => s.setKey k false
  | .pressed =>
    match s.latch with
    | .waiting r => resolveWait r k s
    | .notWaiting => s.setKey k true

/-- `Reset` (R205; 70_reset_and_hazards.md R272): every element of the spec takes its reset value. The model's own draw
counter goes on, so that the bytes drawn after a Reset are fresh (log entry 2). -/
def resetOp (s : State) : State := State.reset.setDraws s.draws

/-- `LoadProgram(b)`: copy the bytes to 0x200 up, or reject them whole (R206). -/
def loadProgram (b : List Byte) (s : State) : Except Fault State :=
  if maxProgram < b.length then .error .programTooLarge
  else .ok (s.setMem (Memory.writeList s.mem loadBase b))

/-- `FrameRead`: the cells and the "changed" flag; nothing changes (R210). -/
def frameRead (s : State) : Framebuffer × Bool := (s.fb, s.fbChanged)

/-- `AckFrame`: clears the "changed" flag and nothing else (R211). -/
def ackFrame (s : State) : State := s.setFbChanged false

/-- `SoundRead`: the sound timer; nothing changes (R212). -/
def soundRead (s : State) : Byte := s.st

/-- The operations of R200, the labels of the transition system (R214). -/
inductive Operation where
  | step
  | timerTick
  | keyEvent (k : KeyIdx) (t : KeyTransition)
  | reset
  | loadProgram (b : List Byte)
  | frameRead
  | ackFrame
  | soundRead
  deriving DecidableEq, Repr

/-- The results of the operations (R200). -/
inductive OpResult where
  /-- The operation has no result. -/
  | none
  /-- The result of a Step (R209). -/
  | step (r : StepResult)
  /-- The program was loaded. -/
  | loaded
  /-- The program was rejected (60_exceptions.md R244). -/
  | loadError (e : Fault)
  /-- The cells and the "changed" flag. -/
  | frame (fb : Framebuffer) (changed : Bool)
  /-- The sound timer. -/
  | sound (st : Byte)
  deriving DecidableEq, Repr

/-- The machine as its host drives it: the hardware's state, and whether a Step has returned a fatal error since the last
Reset. The mark is the model's, not the hardware's (R216: the hardware keeps no error latch; log entry 14). -/
inductive Session where
  | running (s : State)
  | faulted (e : Fault) (s : State)
  deriving DecidableEq, Repr

/-- The hardware's state in a session. -/
def sessionState : Session → State
  | .running s => s
  | .faulted _ s => s

/-- The session with its state replaced and its mark kept. -/
def withState (m : Session) (s : State) : Session :=
  match m with
  | .running _ => .running s
  | .faulted e _ => .faulted e s

/-- A requested Step. After a fatal error it is refused by name (R216; log entry 14). -/
def stepSession : Session → Host.Outcome (OpResult × Session) Fault Refusal
  | .faulted _ _ => .refused .stepAfterFatal
  | .running s =>
    match stepOp s with
    | .error r => .refused r
    | .ok (.fatal e, t) => .next (.step (.fatal e), .faulted e t)
    | .ok (r, t) => .next (.step r, .running t)

/-- A requested LoadProgram (R206). -/
def loadSession (b : List Byte) (m : Session) : OpResult × Session :=
  match loadProgram b (sessionState m) with
  | .error e => (.loadError e, m)
  | .ok t => (.loaded, withState m t)

/-- One operation: its result and the session it leaves. Errors are results, so no operation faults (R214, R240). -/
def hostOp (op : Operation) (m : Session) : Host.Outcome (OpResult × Session) Fault Refusal :=
  match op with
  | .step => stepSession m
  | .timerTick => .next (.none, withState m (timerTick (sessionState m)))
  | .keyEvent k t => .next (.none, withState m (keyEvent k t (sessionState m)))
  | .reset => .next (.none, .running (resetOp (sessionState m)))
  | .loadProgram b => .next (loadSession b m)
  | .frameRead => .next (.frame (frameRead (sessionState m)).1 (frameRead (sessionState m)).2, m)
  | .ackFrame => .next (.none, withState m (ackFrame (sessionState m)))
  | .soundRead => .next (.sound (soundRead (sessionState m)), m)

end Sys2Proof.Machine
end

