-- ==== Sys2Proof/Safety.lean ====
section
/-! DEFINITION. What claims are stated in: the invariant of the machine, the parts of its state, and the spec's tables of
what each instruction may write, store and raise. Nothing here is used by the machine. -/

namespace Sys2Proof.Machine

/-! ### The invariant -/

/-- The reachable-state invariant: memory is canonical (log entry 17), `pc` is at most 0x10FE (10_state.md R25), every stack
entry is at most 4096 (R25: a former `a + 2`), and while the latch waits `pc` is a fetchable address (46_keypad.md R183). -/
structure State.Inv (s : State) : Prop where
  memory : Memory.wf s.mem
  pcBound : s.pc.toNat ≤ 0x10FE
  entries : ∀ j : Fin 16, (s.stack[j]).toNat ≤ 4096
  waiting : s.latch ≠ .notWaiting → s.pc.toNat ≤ 4094

/-! ### Parts of the state and frames -/

/-- The parts of the state, for frames. -/
inductive Part where
  | regs | pc | idx | stack | dt | st | mem | fb | fbChanged | keys | latch | draws
  deriving DecidableEq, Repr

/-- `t` has the same content as `s` in one part; memory is compared through the read of one byte. -/
def Keeps (s t : State) : Part → Prop
  | .regs => ∀ r, t.reg r = s.reg r
  | .pc => t.pc = s.pc
  | .idx => t.idx = s.idx
  | .stack => t.sp = s.sp ∧ ∀ j : Fin 16, t.stack[j] = s.stack[j]
  | .dt => t.dt = s.dt
  | .st => t.st = s.st
  | .mem => ∀ a, t.byte a = s.byte a
  | .fb => ∀ r c, t.cell r c = s.cell r c
  | .fbChanged => t.fbChanged = s.fbChanged
  | .keys => ∀ k, t.key k = s.key k
  | .latch => t.latch = s.latch
  | .draws => t.draws = s.draws

/-- `t` differs from `s` at most in the listed parts. -/
def ChangesOnly (ps : List Part) (s t : State) : Prop := ∀ p, p ∉ ps → Keeps s t p

/-- Two outcomes are the same stop, or next states that differ at most in the listed parts. -/
def SameOutcome (ps : List Part) : Result → Result → Prop
  | .next s, .next t => ChangesOnly ps s t
  | .fault e, .fault f => e = f
  | .refused e, .refused f => e = f
  | _, _ => False

/-- The parts an instruction may change when it completes, from the spec's lists of who writes what
(10_state.md R22, R24, R26 to R30, R32 to R35; 20_memory.md R51). -/
def mayChange : Instr → List Part
  | .cls => [.fb, .fbChanged]
  | .ret => [.pc, .stack]
  | .jp _ => [.pc]
  | .call _ => [.pc, .stack]
  | .seImm _ _ => [.pc]
  | .sneImm _ _ => [.pc]
  | .seReg _ _ => [.pc]
  | .ldImm _ _ => [.regs]
  | .addImm _ _ => [.regs]
  | .ldReg _ _ => [.regs]
  | .orReg _ _ => [.regs]
  | .andReg _ _ => [.regs]
  | .xorReg _ _ => [.regs]
  | .addReg _ _ => [.regs]
  | .subReg _ _ => [.regs]
  | .shr _ _ => [.regs]
  | .subnReg _ _ => [.regs]
  | .shl _ _ => [.regs]
  | .sneReg _ _ => [.pc]
  | .ldI _ => [.idx]
  | .jpV0 _ => [.pc]
  | .rnd _ _ => [.regs, .draws]
  | .drw _ _ _ => [.regs, .fb, .fbChanged]
  | .skp _ => [.pc]
  | .sknp _ => [.pc]
  | .ldVxDt _ => [.regs]
  | .ldVxK _ => [.latch, .pc]
  | .ldDtVx _ => [.dt]
  | .ldStVx _ => [.st]
  | .addI _ => [.idx]
  | .ldF _ => [.idx]
  | .ldB _ => [.mem]
  | .storeRegs _ => [.mem]
  | .loadRegs _ => [.regs]

/-- The registers an instruction may write: `x[X]`, `x[0]` to `x[X]`, and `x[15]` implicitly (10_state.md R22, R26). -/
def writesReg (r : RegIdx) : Instr → Bool
  | .ldImm x _ => r == x
  | .addImm x _ => r == x
  | .ldReg x _ => r == x
  | .orReg x _ => r == x
  | .andReg x _ => r == x
  | .xorReg x _ => r == x
  | .addReg x _ => r == x || r == flagReg
  | .subReg x _ => r == x || r == flagReg
  | .shr x _ => r == x || r == flagReg
  | .subnReg x _ => r == x || r == flagReg
  | .shl x _ => r == x || r == flagReg
  | .rnd x _ => r == x
  | .drw _ _ _ => r == flagReg
  | .ldVxDt x => r == x
  | .loadRegs x => decide (r ≤ x)
  | .cls | .ret | .jp _ | .call _ | .seImm _ _ | .sneImm _ _ | .seReg _ _ | .sneReg _ _ | .ldI _ | .jpV0 _ | .skp _
  | .sknp _ | .ldVxK _ | .ldDtVx _ | .ldStVx _ | .addI _ | .ldF _ | .ldB _ | .storeRegs _ => false

/-- The addresses an instruction stores to: three bytes at `I` for store-bcd, `X + 1` bytes at `I` for store-registers,
none for the others (20_memory.md R51). -/
def storesTo (i : Instr) (s : State) (a : Nat) : Prop :=
  match i with
  | .ldB _ => s.idx.toNat ≤ a ∧ a < s.idx.toNat + 3
  | .storeRegs x => s.idx.toNat ≤ a ∧ a < s.idx.toNat + (x.val + 1)
  | .cls | .ret | .jp _ | .call _ | .seImm _ _ | .sneImm _ _ | .seReg _ _ | .sneReg _ _ | .ldImm _ _ | .addImm _ _
  | .ldReg _ _ | .orReg _ _ | .andReg _ _ | .xorReg _ _ | .addReg _ _ | .subReg _ _ | .shr _ _ | .subnReg _ _ | .shl _ _
  | .ldI _ | .jpV0 _ | .rnd _ _ | .drw _ _ _ | .skp _ | .sknp _ | .ldVxDt _ | .ldVxK _ | .ldDtVx _ | .ldStVx _ | .addI _
  | .ldF _ | .loadRegs _ => False

/-! ### The errors of 60_exceptions.md R241 -/

/-- The error of an access range of `len` bytes at `I`: raised when its highest address is above 4095, with the lowest
address out of range (R241). -/
def rangeError (s : State) (len : Nat) : Option Fault :=
  if len ≠ 0 ∧ 4095 < s.idx.toNat + len - 1 then some (.memoryOutOfRange (max s.idx.toNat 4096)) else none

/-- The error of a key index above 15 (R241). -/
def keyError (s : State) (x : RegIdx) : Option Fault :=
  if 15 < (s.reg x).toNat then some (.keypadIndexOutOfRange (s.reg x)) else none

/-- The one error condition of each handler; no other instruction can raise an error (R241). -/
def handlerError (i : Instr) (s : State) : Option Fault :=
  match i with
  | .ret => if s.sp = 0 then some .stackUnderflow else none
  | .call _ => if s.sp = 16 then some .stackOverflow else none
  | .drw _ _ n => rangeError s n.toNat
  | .ldB _ => rangeError s 3
  | .storeRegs x => rangeError s (x.val + 1)
  | .loadRegs x => rangeError s (x.val + 1)
  | .skp x => keyError s x
  | .sknp x => keyError s x
  | .cls | .jp _ | .seImm _ _ | .sneImm _ _ | .seReg _ _ | .sneReg _ _ | .ldImm _ _ | .addImm _ _ | .ldReg _ _
  | .orReg _ _ | .andReg _ _ | .xorReg _ _ | .addReg _ _ | .subReg _ _ | .shr _ _ | .subnReg _ _ | .shl _ _ | .ldI _
  | .jpV0 _ | .rnd _ _ | .ldVxDt _ | .ldVxK _ | .ldDtVx _ | .ldStVx _ | .addI _ | .ldF _ => none

/-! ### The opcode map of 30_encoding.md R77 -/

/-- A row of the map: the words it selects are those with `w &&& mask = code`. -/
structure OpcodeRow where
  mask : Word
  code : Word
  instr : Instr
  deriving DecidableEq, Repr

/-- A row of the map. -/
def mapRow (mask code : Word) (instr : Instr) : OpcodeRow := ⟨mask, code, instr⟩

/-- Rows of classes 0 to 7 on a word (R77). -/
def opcodeRowsLow (w : Word) : List OpcodeRow :=
  [mapRow 0xF00F#16 0x0000#16 .cls,
   mapRow 0xF00F#16 0x000E#16 .ret,
   mapRow 0xF000#16 0x1000#16 (.jp (fieldNNN w)),
   mapRow 0xF000#16 0x2000#16 (.call (fieldNNN w)),
   mapRow 0xF000#16 0x3000#16 (.seImm (fieldX w) (fieldNN w)),
   mapRow 0xF000#16 0x4000#16 (.sneImm (fieldX w) (fieldNN w)),
   mapRow 0xF000#16 0x5000#16 (.seReg (fieldX w) (fieldY w)),
   mapRow 0xF000#16 0x6000#16 (.ldImm (fieldX w) (fieldNN w)),
   mapRow 0xF000#16 0x7000#16 (.addImm (fieldX w) (fieldNN w))]

/-- Rows of classes 8 and 9 on a word (R77). -/
def opcodeRowsAlu (w : Word) : List OpcodeRow :=
  [mapRow 0xF00F#16 0x8000#16 (.ldReg (fieldX w) (fieldY w)),
   mapRow 0xF00F#16 0x8001#16 (.orReg (fieldX w) (fieldY w)),
   mapRow 0xF00F#16 0x8002#16 (.andReg (fieldX w) (fieldY w)),
   mapRow 0xF00F#16 0x8003#16 (.xorReg (fieldX w) (fieldY w)),
   mapRow 0xF00F#16 0x8004#16 (.addReg (fieldX w) (fieldY w)),
   mapRow 0xF00F#16 0x8005#16 (.subReg (fieldX w) (fieldY w)),
   mapRow 0xF00F#16 0x8006#16 (.shr (fieldX w) (fieldY w)),
   mapRow 0xF00F#16 0x8007#16 (.subnReg (fieldX w) (fieldY w)),
   mapRow 0xF00F#16 0x800E#16 (.shl (fieldX w) (fieldY w)),
   mapRow 0xF000#16 0x9000#16 (.sneReg (fieldX w) (fieldY w))]

/-- Rows of classes A to E on a word (R77). -/
def opcodeRowsHigh (w : Word) : List OpcodeRow :=
  [mapRow 0xF000#16 0xA000#16 (.ldI (fieldNNN w)),
   mapRow 0xF000#16 0xB000#16 (.jpV0 (fieldNNN w)),
   mapRow 0xF000#16 0xC000#16 (.rnd (fieldX w) (fieldNN w)),
   mapRow 0xF000#16 0xD000#16 (.drw (fieldX w) (fieldY w) (fieldN w)),
   mapRow 0xF0FF#16 0xE09E#16 (.skp (fieldX w)),
   mapRow 0xF0FF#16 0xE0A1#16 (.sknp (fieldX w))]

/-- Rows of class F on a word (R77). -/
def opcodeRowsF (w : Word) : List OpcodeRow :=
  [mapRow 0xF0FF#16 0xF007#16 (.ldVxDt (fieldX w)),
   mapRow 0xF0FF#16 0xF00A#16 (.ldVxK (fieldX w)),
   mapRow 0xF0FF#16 0xF015#16 (.ldDtVx (fieldX w)),
   mapRow 0xF0FF#16 0xF018#16 (.ldStVx (fieldX w)),
   mapRow 0xF0FF#16 0xF01E#16 (.addI (fieldX w)),
   mapRow 0xF0FF#16 0xF029#16 (.ldF (fieldX w)),
   mapRow 0xF0FF#16 0xF033#16 (.ldB (fieldX w)),
   mapRow 0xF0FF#16 0xF055#16 (.storeRegs (fieldX w)),
   mapRow 0xF0FF#16 0xF065#16 (.loadRegs (fieldX w))]

/-- The rows of the map on a word: mask, match, and the instruction the row's fields make (R77). -/
def opcodeRows (w : Word) : List OpcodeRow :=
  opcodeRowsLow w ++ opcodeRowsAlu w ++ opcodeRowsHigh w ++ opcodeRowsF w

/-- The unknown words, class by class (30_encoding.md R78). -/
def unknownByTable (w : Word) : Prop :=
  (fieldClass w = 0x0#4 ∧ fieldN w ∉ [0x0#4, 0xE#4]) ∨
  (fieldClass w = 0x8#4 ∧ fieldN w ∈ [0x8#4, 0x9#4, 0xA#4, 0xB#4, 0xC#4, 0xD#4, 0xF#4]) ∨
  (fieldClass w = 0xE#4 ∧ fieldNN w ∉ [0x9E#8, 0xA1#8]) ∨
  (fieldClass w = 0xF#4 ∧
    fieldNN w ∉ [0x07#8, 0x0A#8, 0x15#8, 0x18#8, 0x1E#8, 0x29#8, 0x33#8, 0x55#8, 0x65#8])

/-! ### Fetching, sprites, nested calls -/

/-- The state fetches and its word selects the instruction: the latch does not wait, `pc` is at most 4094, and the bytes at
`pc` and `pc + 1` decode to `i` (50_step_and_interfaces.md R201 to R204). -/
def Fetches (s : State) (i : Instr) : Prop :=
  s.latch = .notWaiting ∧ s.pc.toNat ≤ 4094 ∧
    decode [s.byte s.pc.toNat, s.byte (s.pc.toNat + 1)] = .ok (i, [])

/-- A cell stands under a set bit of the `n`-row sprite at `I`, drawn at column `px`, row `py`: rows wrap modulo 32,
columns modulo 64, and sprite column `j` is bit `7 - j` (45_display.md R170, R172). -/
def UnderSprite (s : State) (n px py : Nat) (r : Fin 32) (c : Fin 64) : Prop :=
  ∃ i, i < n ∧ ∃ j, j < 8 ∧ (s.byte (s.idx.toNat + i)).getLsbD (7 - j) = true ∧
    (py + i) % 32 = r.val ∧ (px + j) % 64 = c.val

/-- The calls to the given targets, one nested in the other, each run with `pc` advanced past it as a Step does. -/
def nestedCalls : List Addr12 → State → Result
  | [], s => .next s
  | target :: rest, s =>
    match exec (.call target) s.advance with
    | .next t => nestedCalls rest t
    | .fault e => .fault e
    | .refused r => .refused r

/-- `n` timer ticks. -/
def ticks : Nat → State → State
  | 0, s => s
  | n + 1, s => ticks n (timerTick s)

/-- The instructions that write the flag register implicitly, and keep the flag in it: the shifts with `X = 15` leave their
result there instead (10_state.md R26; 43_register_alu.md R139). -/
def leavesFlag : Instr → Bool
  | .addReg _ _ | .subReg _ _ | .subnReg _ _ | .drw _ _ _ => true
  | .shr x _ | .shl x _ => x != flagReg
  | .cls | .ret | .jp _ | .call _ | .seImm _ _ | .sneImm _ _ | .seReg _ _ | .sneReg _ _ | .ldImm _ _ | .addImm _ _
  | .ldReg _ _ | .orReg _ _ | .andReg _ _ | .xorReg _ _ | .ldI _ | .jpV0 _ | .rnd _ _ | .skp _ | .sknp _ | .ldVxDt _
  | .ldVxK _ | .ldDtVx _ | .ldStVx _ | .addI _ | .ldF _ | .ldB _ | .storeRegs _ | .loadRegs _ => false

end Sys2Proof.Machine
end

