-- ==== Sys2Proof/Certificates/Slice0/Obligations.lean ====
section
/-! DEFINITION. The statements for the provers. A handler begins with `pc` already advanced past its instruction
(00_scope.md R10), so `s.pc` in a statement about `exec` is the spec's `a + 2`. -/

open Sys2Proof Sys2Proof.Machine

/-! ### Encoding (30_encoding.md) -/

/-- Words written out from the spec's tables and from its source's two anchors decode as the spec says (R75, R77, R78; the
numeric map is general knowledge of the spec's, decisions D1 and D2, log entries 4 and 5). -/
def Obligations.WrittenOutWordsDecode : Prop :=
  decodeWord 0x00E0#16 = some .cls ∧ decodeWord 0x0000#16 = some .cls ∧ decodeWord 0x012E#16 = some .ret ∧
  decodeWord 0x1204#16 = some (.jp 0x204#12) ∧ decodeWord 0x3F01#16 = some (.seImm 15 0x01#8) ∧
  decodeWord 0x5127#16 = some (.seReg 1 2) ∧ decodeWord 0xC30F#16 = some (.rnd 3 0x0F#8) ∧
  decodeWord 0x812E#16 = some (.shl 1 2) ∧ decodeWord 0xA300#16 = some (.ldI 0x300#12) ∧
  decodeWord 0xD125#16 = some (.drw 1 2 0x5#4) ∧ decodeWord 0xE19E#16 = some (.skp 1) ∧
  decodeWord 0xF165#16 = some (.loadRegs 1) ∧ decodeWord 0xF999#16 = none ∧ decodeWord 0x8128#16 = none ∧
  decodeWord 0xE10E#16 = none ∧ decodeWord 0x0123#16 = none

/-- R72: the fields are extracted from every word, and put together again they are the word. -/
def Obligations.FieldsReassembleTheWord : Prop :=
  ∀ w : Word,
    (fieldClass w).toNat * 4096 + (fieldX w).val * 256 + (fieldY w).val * 16 + (fieldN w).toNat = w.toNat ∧
    (fieldClass w).toNat * 4096 + (fieldX w).val * 256 + (fieldNN w).toNat = w.toNat ∧
    (fieldClass w).toNat * 4096 + (fieldNNN w).toNat = w.toNat

/-- Decoding the word, or the bytes, of a well-formed instruction gives it back with every operand, and leaves the bytes
after it alone (R70 to R77). -/
def Obligations.DecodeOfEncodeIsTheInstruction : Prop :=
  ∀ i : Instr, i.wellFormed = true →
    decodeWord (encode i) = some i ∧
    ∀ rest : List Byte, decode (encodeBytes i ++ rest) = .ok (i, rest)

/-- No bit that a row reads is lost by decoding: encoding again gives it back (R76, R77). -/
def Obligations.DecodingKeepsEveryUsedBit : Prop :=
  ∀ (w : Word) (i : Instr), decodeWord w = some i → encode i &&& usedBits i = w &&& usedBits i

/-- The words that select no instruction are exactly those of the table of R78 (it is derived from the map of R77, the
spec's decisions D1 and D2, log entries 4 and 5). -/
def Obligations.UnknownWordsAreExactlyTheTables : Prop :=
  ∀ w : Word, decodeWord w = none ↔ unknownByTable w

/-- The decoder, which dispatches on the class and then on `N` or `NN` as R76 says, is the map of R77: a word selects an
instruction exactly when a row's mask and match select it, and the rows exclude one another (the numbers of the map are
decisions D1 and D2 of the spec, log entries 4 and 5). -/
def Obligations.DecoderIsTheOpcodeMap : Prop :=
  (∀ (w : Word) (i : Instr),
    decodeWord w = some i ↔ ∃ r ∈ opcodeRows w, w &&& r.mask = r.code ∧ r.instr = i) ∧
  ∀ w : Word, ∀ r ∈ opcodeRows w, ∀ q ∈ opcodeRows w, w &&& r.mask = r.code → w &&& q.mask = q.code → r = q

/-! ### The step cycle (50_step_and_interfaces.md) and errors (60_exceptions.md) -/

/-- A Step runs the fetched instruction's handler on the state with `pc` advanced by 2, and does nothing around it
(R202 to R204). -/
def Obligations.StepRunsTheDecodedInstruction : Prop :=
  ∀ (s : State) (i : Instr), Fetches s i → step s = exec i (s.setPc (s.pc + 2))

/-- R201: a Step while the latch waits does nothing and is `Blocked`. -/
def Obligations.BlockedStepChangesNothing : Prop :=
  ∀ (s : State) (r : RegIdx), s.latch = .waiting r → stepOp s = .ok (.blocked, s) ∧ step s = .next s

/-- R202: the fetch reads the two bytes at `pc`, big-endian, for every `pc` up to 4094, and fails from 4095 on, leaving all
state unchanged. -/
def Obligations.FetchFailsExactlyPastTheLastWord : Prop :=
  ∀ s : State,
    (s.pc.toNat ≤ 4094 → fetch s = .ok (wordOfBytes (s.byte s.pc.toNat) (s.byte (s.pc.toNat + 1)))) ∧
    (4095 ≤ s.pc.toNat → fetch s = .error (.fetchOutOfRange s.pc)) ∧
    (s.latch = .notWaiting → 4095 ≤ s.pc.toNat →
      stepOp s = .ok (.fatal (.fetchOutOfRange s.pc), s) ∧ step s = .fault (.fetchOutOfRange s.pc))

/-- R243: an unknown word is reported, only `pc` advances, and the Step is no error. -/
def Obligations.UnknownWordOnlyAdvancesPc : Prop :=
  ∀ s : State, s.latch = .notWaiting → s.pc.toNat ≤ 4094 → decodeWord (s.word s.pc.toNat) = none →
    stepOp s = .ok (.unknown (s.word s.pc.toNat), (s.setPc (s.pc + 2))) ∧
    step s = .next (s.setPc (s.pc + 2))

/-- Each handler raises exactly the error of the table of R241, under its condition, and completes otherwise: no other
instruction can raise an error, and none is refused. (The key error is the spec's decision D7, log entry 8, and the recorded
address is decision D22, log entry 9.) -/
def Obligations.HandlersFaultExactlyAsTabled : Prop :=
  ∀ (i : Instr) (s : State),
    (∀ e, handlerError i s = some e → exec i s = .fault e) ∧
    (handlerError i s = none → ∃ t, exec i s = .next t)

/-- A Step faults exactly when the fetch is out of range or the fetched instruction's own check fails, and it is never
refused (R241, R246; decisions D7 and D22, log entries 8 and 9). -/
def Obligations.StepFaultsExactlyAsTabled : Prop :=
  (∀ (s : State) (e : Fault),
    step s = .fault e ↔
      s.latch = .notWaiting ∧
      ((4095 ≤ s.pc.toNat ∧ e = .fetchOutOfRange s.pc) ∨
        ∃ i, Fetches s i ∧ handlerError i (s.setPc (s.pc + 2)) = some e)) ∧
  ∀ (s : State) (r : Refusal), step s ≠ .refused r

/-- A fatal Step has no effect but the advance of `pc`, and none at all when the fetch failed (the `pc` after a handler's
error is the spec's decision D11, log entry 9). -/
def Obligations.FatalStepHasNoPartialEffect : Prop :=
  ∀ (s t : State) (e : Fault), stepOp s = .ok (.fatal e, t) →
    (4095 ≤ s.pc.toNat → t = s) ∧ (s.pc.toNat ≤ 4094 → t = (s.setPc (s.pc + 2)))

/-- A fatal Step ends the run: a further Step is refused by name, every other operation but Reset keeps the fault mark and its
error, and a Reset makes the machine run again from the reset state (R216, R272; 93_implementation_defined.md U7). That a Step
after a fatal error is refused, and the mark itself, are the spec's decision D12 and the model's choice (log entry 14); that a
Reset keeps the count of random draws is the model's choice (log entry 2). -/
def Obligations.FatalErrorStopsTheSessionUntilReset : Prop :=
  (∀ (s t : State) (e : Fault), stepOp s = .ok (.fatal e, t) →
    hostOp .step (.running s) = .next (.step (.fatal e), .faulted e t)) ∧
  (∀ (e : Fault) (s : State), hostOp .step (.faulted e s) = .refused .stepAfterFatal) ∧
  (∀ (op : Operation) (e : Fault) (s : State), op ≠ .step → op ≠ .reset →
    ∃ (r : OpResult) (t : State), hostOp op (.faulted e s) = .next (r, .faulted e t)) ∧
  ∀ m : Session, hostOp .reset m = .next (.none, .running (State.reset.setDraws (sessionState m).draws))

/-! ### Frames of all instructions -/

/-- What each of the 34 instructions leaves unchanged: every part of the state but those `mayChange` lists for it, memory
compared byte by byte (10_state.md R22, R24, R26 to R30, R32 to R35; 20_memory.md R51; `draws` is the model's, log entry 2).
That FX55 and FX65 leave `I` unchanged is the spec's decision D9, and that FX1E writes `I` alone goes with decision D8, which has
it wrap with no flag (log entry 19, DESIGN CHOICE). -/
def Obligations.InstructionsChangeOnlyTheirParts : Prop :=
  ∀ (i : Instr) (s t : State), exec i s = .next t → ChangesOnly (mayChange i) s t

/-- The registers of each instruction that writes registers: 6XNN, 7XNN, 8XY0 to 8XY3, CXNN, FX07 write only `x[X]`, 8XY4 to
8XY7 and 8XYE only `x[X]` and `x[15]`, DXYN only `x[15]`, FX65 only `x[0]` to `x[X]`; all others write none (R22, R26). -/
def Obligations.InstructionsKeepEveryOtherRegister : Prop :=
  ∀ (i : Instr) (s t : State) (r : RegIdx), exec i s = .next t → writesReg r i = false → t.reg r = s.reg r

/-- FX33 stores only to the three bytes at `I`, FX55 only to the `X + 1` bytes at `I`; no other instruction stores (R51). -/
def Obligations.InstructionsKeepEveryOtherByte : Prop :=
  ∀ (i : Instr) (s t : State) (a : Nat), exec i s = .next t → ¬ storesTo i s a → t.byte a = s.byte a

/-- The six instructions that write the flag register leave 0 or 1 in it (R26), the shifts unless they name register 15
(R139; that exception is the spec's decision D6, log entry 7; that `DXY0` writes 0 is decision D31, log entry 11). -/
def Obligations.FlagWritersLeaveZeroOrOne : Prop :=
  ∀ (i : Instr) (s t : State), exec i s = .next t → leavesFlag i = true →
    t.reg flagReg = 0 ∨ t.reg flagReg = 1

/-- No instruction disturbs a stack entry that is in use before and after it, and the stack pointer moves by at most 1
(R30, R102). -/
def Obligations.StackEntriesInUseSurvive : Prop :=
  ∀ (i : Instr) (s t : State), exec i s = .next t →
    (∀ j : Fin 16, j.val < s.sp.val → j.val < t.sp.val → t.stack[j] = s.stack[j]) ∧
    t.sp.val ≤ s.sp.val + 1 ∧ s.sp.val ≤ t.sp.val + 1

/-- No instruction's behaviour depends on the sound timer, which none reads (R29), nor on the framebuffer's "changed" flag
(R33, R211): two Steps from states that differ only there end alike. -/
def Obligations.SoundTimerAndChangedFlagAreNeverRead : Prop :=
  ∀ s : State,
    (∀ v : Byte, SameOutcome [.st] (step s) (step (s.setSt v))) ∧
    ∀ b : Bool, SameOutcome [.fbChanged] (step s) (step (s.setFbChanged b))

/-! ### Immediates and random (42_immediate_and_random.md) -/

/-- R120 load-immediate. -/
def Obligations.LoadImmediateCompletes : Prop :=
  ∀ (x : RegIdx) (nn : Byte) (s : State), ∃ t, exec (.ldImm x nn) s = .next t ∧
    (∀ r, t.reg r = if r = x then nn else s.reg r) ∧ ChangesOnly [.regs] s t

/-- R121 add-immediate: modulo 256, and no flag. -/
def Obligations.AddImmediateCompletes : Prop :=
  ∀ (x : RegIdx) (nn : Byte) (s : State), ∃ t, exec (.addImm x nn) s = .next t ∧
    (∀ r, (t.reg r).toNat = if r = x then ((s.reg x).toNat + nn.toNat) % 256 else (s.reg r).toNat) ∧
    ChangesOnly [.regs] s t

/-- R122 random-and, for every value of the free byte (decision D21 of the spec, log entry 2): the result has no bit outside
`NN`, and the next draw is another free value. -/
def Obligations.RandomAndCompletes : Prop :=
  ∀ (x : RegIdx) (nn : Byte) (s : State), ∃ t, exec (.rnd x nn) s = .next t ∧
    (∀ r, t.reg r = if r = x then Config.random s.draws &&& nn else s.reg r) ∧
    t.reg x &&& ~~~nn = 0 ∧ t.draws = s.draws + 1 ∧ ChangesOnly [.regs, .draws] s t

/-! ### Register operations (43_register_alu.md) -/

/-- R131, R132, R133: OR, AND, XOR into `x[X]`, bit by bit, and no flag. -/
def Obligations.BitwiseOperationsComplete : Prop :=
  ∀ (x y : RegIdx) (s : State),
    (∃ t, exec (.orReg x y) s = .next t ∧ ChangesOnly [.regs] s t ∧
      (∀ k, k < 8 → (t.reg x).getLsbD k = ((s.reg x).getLsbD k || (s.reg y).getLsbD k)) ∧
      ∀ r, r ≠ x → t.reg r = s.reg r) ∧
    (∃ t, exec (.andReg x y) s = .next t ∧ ChangesOnly [.regs] s t ∧
      (∀ k, k < 8 → (t.reg x).getLsbD k = ((s.reg x).getLsbD k && (s.reg y).getLsbD k)) ∧
      ∀ r, r ≠ x → t.reg r = s.reg r) ∧
    (∃ t, exec (.xorReg x y) s = .next t ∧ ChangesOnly [.regs] s t ∧
      (∀ k, k < 8 → (t.reg x).getLsbD k = ((s.reg x).getLsbD k != (s.reg y).getLsbD k)) ∧
      ∀ r, r ≠ x → t.reg r = s.reg r)

/-- 8XY0 load copies `x[Y]` into `x[X]`; that it copies `x[Y]` is the spec's general knowledge (R130, marked there; log
entry 10). -/
def Obligations.LoadRegisterCompletes : Prop :=
  ∀ (x y : RegIdx) (s : State), ∃ t, exec (.ldReg x y) s = .next t ∧
    (∀ r, t.reg r = if r = x then s.reg y else s.reg r) ∧ ChangesOnly [.regs] s t

/-- R134 add-with-carry: the sum modulo 256 in `x[X]`, the carry in `x[15]`. That the flag stays when `X = 15` is the spec's
decision D6, log entry 7. -/
def Obligations.AddWithCarryCompletes : Prop :=
  ∀ (x y : RegIdx) (s : State), ∃ t, exec (.addReg x y) s = .next t ∧
    (∀ r, (t.reg r).toNat =
      if r = flagReg then (if 255 < (s.reg x).toNat + (s.reg y).toNat then 1 else 0)
      else if r = x then ((s.reg x).toNat + (s.reg y).toNat) % 256 else (s.reg r).toNat) ∧
    ChangesOnly [.regs] s t

/-- R135, R137, R140: the difference modulo 256 in `x[X]`, and in `x[15]` 1 exactly when no borrow occurred. That the flag
stays when `X = 15` is the spec's decision D6, log entry 7. -/
def Obligations.SubtractsComplete : Prop :=
  ∀ (x y : RegIdx) (s : State),
    (∃ t, exec (.subReg x y) s = .next t ∧ ChangesOnly [.regs] s t ∧
      ∀ r, (t.reg r).toNat =
        if r = flagReg then (if (s.reg y).toNat ≤ (s.reg x).toNat then 1 else 0)
        else if r = x then ((s.reg x).toNat + 256 - (s.reg y).toNat) % 256 else (s.reg r).toNat) ∧
    (∃ t, exec (.subnReg x y) s = .next t ∧ ChangesOnly [.regs] s t ∧
      ∀ r, (t.reg r).toNat =
        if r = flagReg then (if (s.reg x).toNat ≤ (s.reg y).toNat then 1 else 0)
        else if r = x then ((s.reg y).toNat + 256 - (s.reg x).toNat) % 256 else (s.reg r).toNat)

/-- R136, R138, R141: the source, `x[X]` or `x[Y]` as the OPEN parameter says, shifted by one in `x[X]`, and the bit shifted
out in `x[15]`; both settings of the parameter are covered (decision D5, log entry 1). That the result stays when `X = 15` is
the spec's decision D6, log entry 7. -/
def Obligations.ShiftsComplete : Prop :=
  ∀ (x y : RegIdx) (s : State) (src : Byte),
    src = (if Config.shiftSource = .regX then s.reg x else s.reg y) →
    (∃ t, exec (.shr x y) s = .next t ∧ ChangesOnly [.regs] s t ∧
      ∀ r, (t.reg r).toNat =
        if r = x then src.toNat / 2 else if r = flagReg then src.toNat % 2 else (s.reg r).toNat) ∧
    (∃ t, exec (.shl x y) s = .next t ∧ ChangesOnly [.regs] s t ∧
      ∀ r, (t.reg r).toNat =
        if r = x then src.toNat * 2 % 256 else if r = flagReg then src.toNat / 128 else (s.reg r).toNat)

/-! ### Index register, loads and stores (44_index_and_memory.md) -/

/-- R150 set-index. -/
def Obligations.SetIndexCompletes : Prop :=
  ∀ (nnn : Addr12) (s : State), ∃ t, exec (.ldI nnn) s = .next t ∧
    t.idx.toNat = nnn.toNat ∧ ChangesOnly [.idx] s t

/-- R151 add-to-index: no flag and no error. That it wraps modulo 2^16 is the spec's decision D8, log entry 19. -/
def Obligations.AddToIndexCompletes : Prop :=
  ∀ (x : RegIdx) (s : State), ∃ t, exec (.addI x) s = .next t ∧
    t.idx.toNat = (s.idx.toNat + (s.reg x).toNat) % 65536 ∧ ChangesOnly [.idx] s t

/-- R152 index-to-glyph: five times the whole register value; for a hex digit that is its glyph's address (R40). That a value
of 16 or more is not masked is an inference of the spec's (R152, marked derived; log entry 19). -/
def Obligations.IndexToGlyphCompletes : Prop :=
  ∀ (x : RegIdx) (s : State), ∃ t, exec (.ldF x) s = .next t ∧
    t.idx.toNat = (s.reg x).toNat * 5 ∧ ((s.reg x).toNat < 16 → t.idx.toNat + 4 < 80) ∧ ChangesOnly [.idx] s t

/-- R153 store-bcd: the decimal digits at `I`, `I + 1`, `I + 2` and no other byte, when the three addresses are in memory; else
an error before any byte is written (no wrap and no partial store: decision D10, log entry 9; the recorded address: D22). -/
def Obligations.StoreBcdCompletesOrFaults : Prop :=
  ∀ (x : RegIdx) (s : State),
    (s.idx.toNat + 2 ≤ 4095 → ∃ t, exec (.ldB x) s = .next t ∧
      (t.byte s.idx.toNat).toNat = (s.reg x).toNat / 100 ∧
      (t.byte (s.idx.toNat + 1)).toNat = (s.reg x).toNat / 10 % 10 ∧
      (t.byte (s.idx.toNat + 2)).toNat = (s.reg x).toNat % 10 ∧
      (∀ a, a < s.idx.toNat ∨ s.idx.toNat + 2 < a → t.byte a = s.byte a) ∧ ChangesOnly [.mem] s t) ∧
    (4095 < s.idx.toNat + 2 → exec (.ldB x) s = .fault (.memoryOutOfRange (max s.idx.toNat 4096)))

/-- R155 store-registers: `x[0]` to `x[X]` at `I` up and no other byte, `I` unchanged (decision D9, log entry 19), when the
addresses are in memory; else an error before any byte is written (decisions D10 and D22, log entry 9). -/
def Obligations.StoreRegistersCompletesOrFaults : Prop :=
  ∀ (x : RegIdx) (s : State),
    (s.idx.toNat + x.val ≤ 4095 → ∃ t, exec (.storeRegs x) s = .next t ∧
      (∀ r : RegIdx, r ≤ x → t.byte (s.idx.toNat + r.val) = s.reg r) ∧
      (∀ a, a < s.idx.toNat ∨ s.idx.toNat + x.val < a → t.byte a = s.byte a) ∧ ChangesOnly [.mem] s t) ∧
    (4095 < s.idx.toNat + x.val → exec (.storeRegs x) s = .fault (.memoryOutOfRange (max s.idx.toNat 4096)))

/-- R156 load-registers: `x[0]` to `x[X]` from `I` up, the registers above `X` and `I` unchanged (decision D9, log entry 19),
when the addresses are in memory; else an error before any register is written (decisions D10 and D22, log entry 9). -/
def Obligations.LoadRegistersCompletesOrFaults : Prop :=
  ∀ (x : RegIdx) (s : State),
    (s.idx.toNat + x.val ≤ 4095 → ∃ t, exec (.loadRegs x) s = .next t ∧
      (∀ r : RegIdx, t.reg r = if r ≤ x then s.byte (s.idx.toNat + r.val) else s.reg r) ∧ ChangesOnly [.regs] s t) ∧
    (4095 < s.idx.toNat + x.val → exec (.loadRegs x) s = .fault (.memoryOutOfRange (max s.idx.toNat 4096)))

/-- A store into the instruction stream is seen by the next fetch there, at every address inside the stored block
(20_memory.md R52, R60; an inference the spec marks as its own). -/
def Obligations.StoredBytesAreFetchedAsInstructions : Prop :=
  ∀ (x : RegIdx) (s t : State), exec (.storeRegs x) s = .next t →
    ∀ j k : RegIdx, k.val = j.val + 1 → k ≤ x →
      fetch (t.setPc (s.idx + BitVec.ofNat 16 j.val)) = .ok (wordOfBytes (s.reg j) (s.reg k))

/-! ### Timers (47_timers.md, 50_step_and_interfaces.md) -/

/-- R190 read-delay-timer. -/
def Obligations.ReadDelayTimerCompletes : Prop :=
  ∀ (x : RegIdx) (s : State), ∃ t, exec (.ldVxDt x) s = .next t ∧
    (∀ r, t.reg r = if r = x then s.dt else s.reg r) ∧ ChangesOnly [.regs] s t

/-- R191 set-delay-timer and R192 set-sound-timer. -/
def Obligations.SetTimersComplete : Prop :=
  ∀ (x : RegIdx) (s : State),
    (∃ t, exec (.ldDtVx x) s = .next t ∧ t.dt = s.reg x ∧ ChangesOnly [.dt] s t) ∧
    (∃ t, exec (.ldStVx x) s = .next t ∧ t.st = s.reg x ∧ ChangesOnly [.st] s t)

/-- A Step changes the delay timer only by set-delay-timer and the sound timer only by set-sound-timer: it never ticks
(10_state.md R28, R29; R213). -/
def Obligations.StepNeverTicksTheTimers : Prop :=
  ∀ s t : State, step s = .next t →
    (t.dt = s.dt ∨ ∃ x, Fetches s (.ldDtVx x) ∧ t.dt = s.reg x) ∧
    (t.st = s.st ∨ ∃ x, Fetches s (.ldStVx x) ∧ t.st = s.reg x)

/-- Any number of ticks takes each timer down by that number, staying at 0, and changes nothing else; the operation TimerTick
is one such tick, in a running and in a faulted session (R200, R207; the step of 1 and the floor are the spec's decision D20, log
entry 20; that a tick acts in a faulted session is the model's choice, log entry 14). -/
def Obligations.TicksCountBothTimersDownToZero : Prop :=
  ∀ (n : Nat) (s : State), (ticks n s).dt.toNat = s.dt.toNat - n ∧ (ticks n s).st.toNat = s.st.toNat - n ∧
    ChangesOnly [.dt, .st] s (ticks n s) ∧
    hostOp .timerTick (.running (ticks n s)) = .next (.none, .running (ticks (n + 1) s)) ∧
    ∀ e : Fault, hostOp .timerTick (.faulted e (ticks n s)) = .next (.none, .faulted e (ticks (n + 1) s))

/-! ### Control transfer and skips (40_control_transfer.md, 41_skips.md) -/

/-- R101 jump, and a jump to its own address changes nothing at all. -/
def Obligations.JumpCompletes : Prop :=
  ∀ (nnn : Addr12) (s : State),
    (∃ t, exec (.jp nnn) s = .next t ∧ t.pc.toNat = nnn.toNat ∧ ChangesOnly [.pc] s t) ∧
    (Fetches s (.jp nnn) → s.pc.toNat = nnn.toNat → step s = .next s)

/-- R103 jump-with-offset: the sum never wraps and is not reduced modulo 4096. -/
def Obligations.JumpWithOffsetCompletes : Prop :=
  ∀ (nnn : Addr12) (s : State), ∃ t, exec (.jpV0 nnn) s = .next t ∧
    t.pc.toNat = (s.reg 0).toNat + nnn.toNat ∧ ChangesOnly [.pc] s t

/-- R102 call: the already advanced `pc` goes to the next entry, every other entry stays; with 16 entries it overflows (what
the state is after the error is decision D11, log entry 9, and is stated in `FatalStepHasNoPartialEffect`). -/
def Obligations.CallCompletesOrOverflows : Prop :=
  ∀ (nnn : Addr12) (s : State),
    (s.sp.val < 16 → ∃ t, exec (.call nnn) s = .next t ∧ t.sp.val = s.sp.val + 1 ∧
      (∀ j : Fin 16, t.stack[j] = if j.val = s.sp.val then s.pc else s.stack[j]) ∧
      t.pc.toNat = nnn.toNat ∧ ChangesOnly [.pc, .stack] s t) ∧
    (s.sp.val = 16 → exec (.call nnn) s = .fault .stackOverflow)

/-- R100 return: `pc` from the popped entry, which keeps its value (an inference the spec marks as its own, R30); with no entry
it underflows (what the state is after the error is decision D11, log entry 9). -/
def Obligations.ReturnCompletesOrUnderflows : Prop :=
  ∀ s : State,
    (0 < s.sp.val → ∃ t, exec .ret s = .next t ∧
      (∃ j : Fin 16, j.val + 1 = s.sp.val ∧ t.sp.val = j.val ∧ t.pc = s.stack[j]) ∧
      (∀ j : Fin 16, t.stack[j] = s.stack[j]) ∧ ChangesOnly [.pc, .stack] s t) ∧
    (s.sp.val = 0 → exec .ret s = .fault .stackUnderflow)

/-- A call and then a return, wherever the return stands, leave `pc` at the address after the call, and the stack pointer as it
was (R102, quoting its source). -/
def Obligations.CallThenReturnComesBack : Prop :=
  ∀ (nnn : Addr12) (s : State) (p : Word), s.sp.val < 16 →
    ∃ t u, exec (.call nnn) s = .next t ∧ exec .ret (t.setPc p) = .next u ∧
      u.pc = s.pc ∧ u.sp = s.sp ∧ ChangesOnly [.stack] s u

/-- Nested calls succeed as long as the stack has room, sixteen from an empty stack, and leave the entries that were in use;
one call more reports the overflow (R102). -/
def Obligations.NestedCallsSucceedUpToSixteen : Prop :=
  ∀ (targets : List Addr12) (s : State),
    (s.sp.val + targets.length ≤ 16 → ∃ t, nestedCalls targets s = .next t ∧
      t.sp.val = s.sp.val + targets.length ∧ ∀ j : Fin 16, j.val < s.sp.val → t.stack[j] = s.stack[j]) ∧
    (16 < s.sp.val + targets.length → nestedCalls targets s = .fault .stackOverflow)

/-- R110 to R113, the four skips on registers: `pc` advances by 2 more exactly when the condition holds. -/
def Obligations.RegisterSkipsComplete : Prop :=
  ∀ (x y : RegIdx) (nn : Byte) (s : State),
    (∃ t, exec (.seImm x nn) s = .next t ∧ ChangesOnly [.pc] s t ∧
      t.pc = if s.reg x = nn then s.pc + 2 else s.pc) ∧
    (∃ t, exec (.sneImm x nn) s = .next t ∧ ChangesOnly [.pc] s t ∧
      t.pc = if s.reg x = nn then s.pc else s.pc + 2) ∧
    (∃ t, exec (.seReg x y) s = .next t ∧ ChangesOnly [.pc] s t ∧
      t.pc = if s.reg x = s.reg y then s.pc + 2 else s.pc) ∧
    (∃ t, exec (.sneReg x y) s = .next t ∧ ChangesOnly [.pc] s t ∧
      t.pc = if s.reg x = s.reg y then s.pc else s.pc + 2)

/-! ### Keypad (46_keypad.md) -/

/-- R180 and R181, the two key skips, for a register value up to 15; above it the error of R182 (the spec's decision D7, log
entry 8). -/
def Obligations.KeySkipsCompleteOrFault : Prop :=
  ∀ (x : RegIdx) (s : State),
    (∀ k : KeyIdx, (s.reg x).toNat = k.val →
      (∃ t, exec (.skp x) s = .next t ∧ ChangesOnly [.pc] s t ∧
        t.pc = if s.key k = true then s.pc + 2 else s.pc) ∧
      (∃ t, exec (.sknp x) s = .next t ∧ ChangesOnly [.pc] s t ∧
        t.pc = if s.key k = true then s.pc else s.pc + 2)) ∧
    (15 < (s.reg x).toNat → exec (.skp x) s = .fault (.keypadIndexOutOfRange (s.reg x)) ∧
      exec (.sknp x) s = .fault (.keypadIndexOutOfRange (s.reg x)))

/-- wait-for-key sets the latch and goes back to its own address; no register is written (that `pc` goes back is the spec's
decision D4, log entry 6). -/
def Obligations.WaitForKeyCompletes : Prop :=
  ∀ (x : RegIdx) (s : State), ∃ t, exec (.ldVxK x) s = .next t ∧
    t.latch = .waiting x ∧ t.pc = s.pc - 2 ∧ ChangesOnly [.latch, .pc] s t

/-- The whole life of a key wait (R183, R184, R201): the Step sets the latch and stays at the instruction, every further Step
does nothing, and a key press writes the key's index to the register, releases the latch and continues after the instruction
(decisions D4 and D28, log entry 6). -/
def Obligations.KeyWaitLastsUntilTheKeyPress : Prop :=
  ∀ (s : State) (x : RegIdx) (k : KeyIdx), Fetches s (.ldVxK x) →
    ∃ t, step s = .next t ∧ t.latch = .waiting x ∧ ChangesOnly [.latch] s t ∧ step t = .next t ∧
      ∃ u, hostOp (.keyEvent k .pressed) (.running t) = .next (.none, .running u) ∧
        (u.reg x).toNat = k.val ∧ (∀ r, r ≠ x → u.reg r = s.reg r) ∧
        u.key k = true ∧ (∀ q, q ≠ k → u.key q = s.key q) ∧
        u.pc.toNat = s.pc.toNat + 2 ∧ u.latch = .notWaiting ∧ ChangesOnly [.regs, .pc, .keys] s u

/-- The latch is set only by wait-for-key, and a waiting latch is released only by a key press or a Reset
(10_state.md R35; 46_keypad.md R185). -/
def Obligations.LatchIsSetAndReleasedOnlyAsSaid : Prop :=
  (∀ (s t : State) (x : RegIdx), s.latch = .notWaiting → step s = .next t → t.latch = .waiting x →
    Fetches s (.ldVxK x)) ∧
  ∀ (s : State) (op : Operation) (r : OpResult) (m : Session), s.latch ≠ .notWaiting →
    hostOp op (.running s) = .next (r, m) →
      (sessionState m).latch = s.latch ∨ op = .reset ∨ ∃ k, op = .keyEvent k .pressed

/-- R208, the key events that resolve no wait: a release clears its key, a press with the latch free sets it, and nothing else
changes, the latch and the other keys included; the operation KeyEvent gives this state, in a running and in a faulted session
(R200). That a key is accepted whatever its state was is decision D28 (log entry 6); that an event acts in a faulted session is the
model's choice (log entry 14). -/
def Obligations.KeyEventsSetTheirKeyOnly : Prop :=
  ∀ (k : KeyIdx) (s : State),
    (∀ q, (keyEvent k .released s).key q = if q = k then false else s.key q) ∧
    ChangesOnly [.keys] s (keyEvent k .released s) ∧
    hostOp (.keyEvent k .released) (.running s) = .next (.none, .running (keyEvent k .released s)) ∧
    (∀ e : Fault, hostOp (.keyEvent k .released) (.faulted e s) = .next (.none, .faulted e (keyEvent k .released s))) ∧
    (s.latch = .notWaiting →
      (∀ q, (keyEvent k .pressed s).key q = if q = k then true else s.key q) ∧
      ChangesOnly [.keys] s (keyEvent k .pressed s) ∧
      hostOp (.keyEvent k .pressed) (.running s) = .next (.none, .running (keyEvent k .pressed s)) ∧
      ∀ e : Fault, hostOp (.keyEvent k .pressed) (.faulted e s) = .next (.none, .faulted e (keyEvent k .pressed s)))

/-! ### Display (45_display.md) -/

/-- R171 clear-screen, which the word 0x0000 also selects. -/
def Obligations.ClearScreenCompletes : Prop :=
  decodeWord 0x0000#16 = some .cls ∧
  ∀ s : State, ∃ t, exec .cls s = .next t ∧
    (∀ r c, t.cell r c = false) ∧ t.fbChanged = true ∧ ChangesOnly [.fb, .fbChanged] s t

/-- R172 draw-sprite, for every `N`, position and form: exactly the cells under a set sprite bit flip, with wraparound; the flag
says whether one of them was 1; an access range that leaves memory is an error before anything is written. The bit order is
decision D13 (log entry 11), `N = 0` decision D31 (log entry 11), the bounds decisions D10 and D22 (log entry 9). -/
def Obligations.DrawSpriteCompletesOrFaults : Prop :=
  ∀ (x y : RegIdx) (n : Nibble) (s : State),
    (n = 0 ∨ s.idx.toNat + n.toNat ≤ 4096 → ∃ t, exec (.drw x y n) s = .next t ∧
      (∀ r c, (UnderSprite s n.toNat (s.reg x).toNat (s.reg y).toNat r c → t.cell r c = !s.cell r c) ∧
        (¬ UnderSprite s n.toNat (s.reg x).toNat (s.reg y).toNat r c → t.cell r c = s.cell r c)) ∧
      t.fbChanged = true ∧
      (t.reg flagReg = 0 ∨ t.reg flagReg = 1) ∧
      (t.reg flagReg = 1 ↔
        ∃ r c, UnderSprite s n.toNat (s.reg x).toNat (s.reg y).toNat r c ∧ s.cell r c = true) ∧
      (∀ r, r ≠ flagReg → t.reg r = s.reg r) ∧ ChangesOnly [.regs, .fb, .fbChanged] s t) ∧
    (n ≠ 0 ∧ 4096 < s.idx.toNat + n.toNat →
      exec (.drw x y n) s = .fault (.memoryOutOfRange (max s.idx.toNat 4096)))

/-- R173: drawing the same sprite twice at the same coordinates restores the framebuffer; the first draw reports a collision
exactly when a cell under the sprite held 1, the second exactly when one held 0 (the precise form is an inference the spec marks
as its own). The coordinates are the same unless the flag register is one of them and the first draw changed it. Which cells are
under the sprite rests on its bit order, general knowledge of the spec's (decision D13, log entry 11, PRESUMED); that `DXY0`
writes 0 to `x[15]`, which the collision clauses say at `N = 0`, is decision D31 (log entry 11, DESIGN CHOICE). -/
def Obligations.DrawingTwiceRestoresTheFramebuffer : Prop :=
  ∀ (x y : RegIdx) (n : Nibble) (s t : State) (p : Word), exec (.drw x y n) s = .next t →
    t.reg x = s.reg x → t.reg y = s.reg y →
    (t.reg flagReg = 1 ↔
      ∃ r c, UnderSprite s n.toNat (s.reg x).toNat (s.reg y).toNat r c ∧ s.cell r c = true) ∧
    ∃ u, exec (.drw x y n) (t.setPc p) = .next u ∧ (∀ r c, u.cell r c = s.cell r c) ∧
      (u.reg flagReg = 1 ↔
        ∃ r c, UnderSprite s n.toNat (s.reg x).toNat (s.reg y).toNat r c ∧ s.cell r c = false)

/-! ### The host's operations (50_step_and_interfaces.md) -/

/-- Reset leaves the state of 10_state.md R37 whatever the state was (R205; 70_reset_and_hazards.md R271, R272). The blank
framebuffer, its flag, the released keys and the free latch are the spec's decision D15 (log entry 12); the low 80
bytes are the OPEN parameter `GLYPH_ROM`, whatever it is (R40, R41; decision D14, log entry 3). The count of random draws, the
model's own field, is not set back: the model's choice (log entry 2). -/
def Obligations.ResetLeavesTheResetState : Prop :=
  ∀ s : State, resetOp s = State.reset.setDraws s.draws ∧
    (∀ r, (resetOp s).reg r = 0) ∧ (resetOp s).idx = 0 ∧ (resetOp s).pc = 0x200#16 ∧ (resetOp s).sp.val = 0 ∧
    (∀ j : Fin 16, (resetOp s).stack[j] = 0) ∧ (resetOp s).dt = 0 ∧ (resetOp s).st = 0 ∧
    (∀ a : Fin 80, (resetOp s).byte a.val = Config.glyphRom a) ∧ (∀ a, 80 ≤ a → (resetOp s).byte a = 0) ∧
    (∀ r c, (resetOp s).cell r c = false) ∧ (resetOp s).fbChanged = true ∧
    (∀ k, (resetOp s).key k = false) ∧ (resetOp s).latch = .notWaiting

/-- R206 LoadProgram: up to 3584 bytes land at 0x200 up and nothing else changes; a longer program is rejected and nothing
changes at all, in a running and in a faulted session (that nothing but the bytes is touched, at any time, is the spec's decision
D24, log entry 21; the mark of a faulted session is the model's, log entry 14). -/
def Obligations.LoadProgramCopiesOrRejects : Prop :=
  ∀ (b : List Byte) (s : State),
    (b.length ≤ 3584 → ∃ t, hostOp (.loadProgram b) (.running s) = .next (.loaded, .running t) ∧
      (∀ e : Fault, hostOp (.loadProgram b) (.faulted e s) = .next (.loaded, .faulted e t)) ∧
      (∀ (j : Nat) (h : j < b.length), t.byte (0x200 + j) = b[j]) ∧
      (∀ a, a < 0x200 ∨ 0x200 + b.length ≤ a → t.byte a = s.byte a) ∧ ChangesOnly [.mem] s t) ∧
    (3584 < b.length →
      hostOp (.loadProgram b) (.running s) = .next (.loadError .programTooLarge, .running s) ∧
      ∀ e : Fault, hostOp (.loadProgram b) (.faulted e s) = .next (.loadError .programTooLarge, .faulted e s))

/-- R210, R211, R212: FrameRead returns the cells and the flag and changes nothing, AckFrame clears the flag and nothing else,
SoundRead returns the sound timer and changes nothing, in a running and in a faulted session (AckFrame as an operation of its own
is decision D17, SoundRead decision D26, log entry 21; the mark of a faulted session is the model's, log entry 14). -/
def Obligations.FrameAndSoundPortsObserve : Prop :=
  ∀ (m : Session) (s : State),
    (∃ cells, hostOp .frameRead m = .next (.frame cells (sessionState m).fbChanged, m) ∧
      ∀ (r : Fin 32) (c : Fin 64), (cells[r])[c] = (sessionState m).cell r c) ∧
    (∃ t, hostOp .ackFrame (.running s) = .next (.none, .running t) ∧
      (∀ e : Fault, hostOp .ackFrame (.faulted e s) = .next (.none, .faulted e t)) ∧ t.fbChanged = false ∧
      ChangesOnly [.fbChanged] s t) ∧
    hostOp .soundRead m = .next (.sound (sessionState m).st, m)

/-! ### The invariant -/

/-- Every Step keeps the invariant: canonical memory, `pc` at most 0x10FE, stack entries at most 4096, and `pc` at most 4094
while the latch waits. Canonical memory is the model's (log entry 17, DESIGN CHOICE); the bounds on `pc` and on the entries are
inferences (10_state.md R25, R30; log entry 27, DEDUCED); the bound while waiting rests on `pc` going back to the instruction,
which 46_keypad.md R183 marks as decision D4 (log entry 6, DESIGN CHOICE). -/
def Obligations.StepKeepsTheInvariant : Prop :=
  ∀ s t : State, s.Inv → step s = .next t → t.Inv

/-- The reset state meets the invariant: canonical memory, the model's own form (log entry 17, DESIGN CHOICE), `pc` at most
0x10FE, stack entries at most 4096 (log entry 27, DEDUCED), and `pc` at most 4094 if the latch waits (log entry 6). -/
def Obligations.ResetMeetsTheInvariant : Prop := State.reset.Inv

/-- Every operation of the host keeps the invariant, in a running and in a faulted session, whatever its result. Canonical
memory is the model's (log entry 17, DESIGN CHOICE), and so is the mark of a faulted session (log entry 14); the bounds on `pc`
and on the stack entries are inferences (10_state.md R25, R30; log entry 27, DEDUCED); the bound on `pc` while the latch waits
rests on `pc` going back to the instruction, which 46_keypad.md R183 marks as decision D4 (log entry 6, DESIGN CHOICE). -/
def Obligations.EveryOperationKeepsTheInvariant : Prop :=
  ∀ (op : Operation) (m m' : Session) (r : OpResult), (sessionState m).Inv →
    hostOp op m = .next (r, m') → (sessionState m').Inv
end

