-- ==== Sys2Proof/Laws/Decode.lean ====
section
/-! SUPPORT. The fields of a packed word, and the bytes of a word. -/

namespace Sys2Proof

/-! ### The bits of a packed word -/

theorem packNNN_bit (c : Nibble) (nnn : Addr12) (i : Nat) :
    (packNNN c nnn).getLsbD i = if i < 12 then nnn.getLsbD i else c.getLsbD (i - 12) :=
  BitVec.getLsbD_append

theorem packXNN_bit (c : Nibble) (x : RegIdx) (nn : Byte) (i : Nat) :
    (packXNN c x nn).getLsbD i =
      if i < 8 then nn.getLsbD i else if i - 8 < 4 then (regBits x).getLsbD (i - 8) else c.getLsbD (i - 8 - 4) :=
  BitVec.getLsbD_append.trans (by rw [BitVec.getLsbD_append])

theorem packXYN_bit (c : Nibble) (x y : RegIdx) (n : Nibble) (i : Nat) :
    (packXYN c x y n).getLsbD i =
      if i < 8 then (if i < 4 then n.getLsbD i else (regBits y).getLsbD (i - 4))
      else if i - 8 < 4 then (regBits x).getLsbD (i - 8) else c.getLsbD (i - 8 - 4) :=
  BitVec.getLsbD_append.trans (by rw [BitVec.getLsbD_append, BitVec.getLsbD_append])

/-! ### The fields of a packed word -/

/-- The bits of a slice. -/
theorem extract_eq {w k : Nat} {v : BitVec w} {lo : Nat} {u : BitVec k}
    (h : ∀ i, i < k → v.getLsbD (lo + i) = u.getLsbD i) : v.extractLsb' lo k = u := by
  apply BitVec.eq_of_getLsbD_eq
  intro i hi
  rw [BitVec.getLsbD_extractLsb', h i hi]
  simp [hi]

@[simp] theorem fieldClass_packNNN (c : Nibble) (nnn : Addr12) : fieldClass (packNNN c nnn) = c :=
  extract_eq fun i _ => by rw [packNNN_bit, if_neg (by omega)]; congr 1; omega

@[simp] theorem fieldNNN_packNNN (c : Nibble) (nnn : Addr12) : fieldNNN (packNNN c nnn) = nnn :=
  extract_eq fun i hi => by rw [packNNN_bit, if_pos (by omega)]; congr 1; omega

@[simp] theorem fieldClass_packXNN (c : Nibble) (x : RegIdx) (nn : Byte) : fieldClass (packXNN c x nn) = c :=
  extract_eq fun i _ => by rw [packXNN_bit, if_neg (by omega), if_neg (by omega)]; congr 1; omega

@[simp] theorem fieldX_packXNN (c : Nibble) (x : RegIdx) (nn : Byte) : fieldX (packXNN c x nn) = x :=
  congrArg BitVec.toFin (a₂ := regBits x) <|
    extract_eq fun i _ => by rw [packXNN_bit, if_neg (by omega), if_pos (by omega)]; congr 1; omega

@[simp] theorem fieldNN_packXNN (c : Nibble) (x : RegIdx) (nn : Byte) : fieldNN (packXNN c x nn) = nn :=
  extract_eq fun i hi => by rw [packXNN_bit, if_pos (by omega)]; congr 1; omega

@[simp] theorem fieldClass_packXYN (c : Nibble) (x y : RegIdx) (n : Nibble) : fieldClass (packXYN c x y n) = c :=
  extract_eq fun i _ => by rw [packXYN_bit, if_neg (by omega), if_neg (by omega)]; congr 1; omega

@[simp] theorem fieldX_packXYN (c : Nibble) (x y : RegIdx) (n : Nibble) : fieldX (packXYN c x y n) = x :=
  congrArg BitVec.toFin (a₂ := regBits x) <|
    extract_eq fun i _ => by rw [packXYN_bit, if_neg (by omega), if_pos (by omega)]; congr 1; omega

@[simp] theorem fieldY_packXYN (c : Nibble) (x y : RegIdx) (n : Nibble) : fieldY (packXYN c x y n) = y :=
  congrArg BitVec.toFin (a₂ := regBits y) <|
    extract_eq fun i _ => by rw [packXYN_bit, if_pos (by omega), if_neg (by omega)]; congr 1; omega

@[simp] theorem fieldN_packXYN (c : Nibble) (x y : RegIdx) (n : Nibble) : fieldN (packXYN c x y n) = n :=
  extract_eq fun i hi => by rw [packXYN_bit, if_pos (by omega), if_pos (by omega)]; congr 1; omega

/-! ### The bytes of a word -/

@[simp] theorem wordOfBytes_highByte_lowByte (w : Word) : wordOfBytes (highByte w) (lowByte w) = w := by
  apply BitVec.eq_of_getLsbD_eq
  intro i hi
  refine BitVec.getLsbD_append.trans ?_
  unfold highByte lowByte
  rw [BitVec.getLsbD_extractLsb', BitVec.getLsbD_extractLsb']
  split
  · simp [*]
  · rw [show 8 + (i - 8) = i by omega]
    simp [show i - 8 < 8 by omega]

@[simp] theorem highByte_wordOfBytes (hi lo : Byte) : highByte (wordOfBytes hi lo) = hi :=
  extract_eq fun i _ => BitVec.getLsbD_append.trans (by rw [if_neg (by omega)]; congr 1; omega)

@[simp] theorem lowByte_wordOfBytes (hi lo : Byte) : lowByte (wordOfBytes hi lo) = lo :=
  extract_eq fun i _ => BitVec.getLsbD_append.trans (by rw [if_pos (by omega)]; congr 1; omega)

/-! ### Decoding bytes -/

/-- What the byte decoder answers on two bytes or more. -/
theorem decode_cons_cons (hi lo : Byte) (rest : List Byte) :
    decode (hi :: lo :: rest) =
      match decodeWord (wordOfBytes hi lo) with
      | some i => .ok (i, rest)
      | none => .error (.unknownWord (wordOfBytes hi lo)) := rfl

/-- The byte decoder gives an instruction exactly where the word decoder does. -/
theorem decode_eq_ok {hi lo : Byte} {rest rest' : List Byte} {i : Instr} :
    decode (hi :: lo :: rest) = .ok (i, rest') ↔ decodeWord (wordOfBytes hi lo) = some i ∧ rest = rest' := by
  rw [decode_cons_cons]
  cases decodeWord (wordOfBytes hi lo) <;> simp

/-- The byte decoder on the two bytes of a word. -/
theorem decodeTableWord_eq (nbits w : Nat) : decodeTableWord nbits w = decodeWord (tableWord nbits w) := by
  simp only [decodeTableWord, decode_cons_cons, wordOfBytes_highByte_lowByte]
  cases decodeWord (tableWord nbits w) <;> rfl

end Sys2Proof
end

