-- ==== Sys2Proof/Laws/State.lean ====
section
/-! SUPPORT. One lemma per field per update of the state, so that no later proof unfolds a record update. -/

namespace Sys2Proof.Machine

/-! ### `State.setReg` -/

@[simp] theorem State.setReg_regs (s : State) (r : RegIdx) (v : Byte) : (s.setReg r v).regs = s.regs.set r v := rfl
@[simp] theorem State.setReg_idx (s : State) (r : RegIdx) (v : Byte) : (s.setReg r v).idx = s.idx := rfl
@[simp] theorem State.setReg_pc (s : State) (r : RegIdx) (v : Byte) : (s.setReg r v).pc = s.pc := rfl
@[simp] theorem State.setReg_sp (s : State) (r : RegIdx) (v : Byte) : (s.setReg r v).sp = s.sp := rfl
@[simp] theorem State.setReg_stack (s : State) (r : RegIdx) (v : Byte) : (s.setReg r v).stack = s.stack := rfl
@[simp] theorem State.setReg_dt (s : State) (r : RegIdx) (v : Byte) : (s.setReg r v).dt = s.dt := rfl
@[simp] theorem State.setReg_st (s : State) (r : RegIdx) (v : Byte) : (s.setReg r v).st = s.st := rfl
@[simp] theorem State.setReg_mem (s : State) (r : RegIdx) (v : Byte) : (s.setReg r v).mem = s.mem := rfl
@[simp] theorem State.setReg_fb (s : State) (r : RegIdx) (v : Byte) : (s.setReg r v).fb = s.fb := rfl
@[simp] theorem State.setReg_fbChanged (s : State) (r : RegIdx) (v : Byte) : (s.setReg r v).fbChanged = s.fbChanged := rfl
@[simp] theorem State.setReg_keys (s : State) (r : RegIdx) (v : Byte) : (s.setReg r v).keys = s.keys := rfl
@[simp] theorem State.setReg_latch (s : State) (r : RegIdx) (v : Byte) : (s.setReg r v).latch = s.latch := rfl
@[simp] theorem State.setReg_draws (s : State) (r : RegIdx) (v : Byte) : (s.setReg r v).draws = s.draws := rfl
@[simp] theorem State.setReg_byte (s : State) (r : RegIdx) (v : Byte) (a : Nat) : (s.setReg r v).byte a = s.byte a := rfl
@[simp] theorem State.setReg_key (s : State) (r : RegIdx) (v : Byte) (q : KeyIdx) : (s.setReg r v).key q = s.key q := rfl
@[simp] theorem State.setReg_cell (s : State) (r : RegIdx) (v : Byte) (i : Fin fbRows) (c : Fin fbCols) : (s.setReg r v).cell i c = s.cell i c := rfl

/-! ### `State.setRegs` -/

@[simp] theorem State.setRegs_regs (s : State) (v : Vector Byte 16) : (s.setRegs v).regs = v := rfl
@[simp] theorem State.setRegs_idx (s : State) (v : Vector Byte 16) : (s.setRegs v).idx = s.idx := rfl
@[simp] theorem State.setRegs_pc (s : State) (v : Vector Byte 16) : (s.setRegs v).pc = s.pc := rfl
@[simp] theorem State.setRegs_sp (s : State) (v : Vector Byte 16) : (s.setRegs v).sp = s.sp := rfl
@[simp] theorem State.setRegs_stack (s : State) (v : Vector Byte 16) : (s.setRegs v).stack = s.stack := rfl
@[simp] theorem State.setRegs_dt (s : State) (v : Vector Byte 16) : (s.setRegs v).dt = s.dt := rfl
@[simp] theorem State.setRegs_st (s : State) (v : Vector Byte 16) : (s.setRegs v).st = s.st := rfl
@[simp] theorem State.setRegs_mem (s : State) (v : Vector Byte 16) : (s.setRegs v).mem = s.mem := rfl
@[simp] theorem State.setRegs_fb (s : State) (v : Vector Byte 16) : (s.setRegs v).fb = s.fb := rfl
@[simp] theorem State.setRegs_fbChanged (s : State) (v : Vector Byte 16) : (s.setRegs v).fbChanged = s.fbChanged := rfl
@[simp] theorem State.setRegs_keys (s : State) (v : Vector Byte 16) : (s.setRegs v).keys = s.keys := rfl
@[simp] theorem State.setRegs_latch (s : State) (v : Vector Byte 16) : (s.setRegs v).latch = s.latch := rfl
@[simp] theorem State.setRegs_draws (s : State) (v : Vector Byte 16) : (s.setRegs v).draws = s.draws := rfl
@[simp] theorem State.setRegs_byte (s : State) (v : Vector Byte 16) (a : Nat) : (s.setRegs v).byte a = s.byte a := rfl
@[simp] theorem State.setRegs_key (s : State) (v : Vector Byte 16) (q : KeyIdx) : (s.setRegs v).key q = s.key q := rfl
@[simp] theorem State.setRegs_cell (s : State) (v : Vector Byte 16) (i : Fin fbRows) (c : Fin fbCols) : (s.setRegs v).cell i c = s.cell i c := rfl

/-! ### `State.setIdx` -/

@[simp] theorem State.setIdx_regs (s : State) (v : Word) : (s.setIdx v).regs = s.regs := rfl
@[simp] theorem State.setIdx_idx (s : State) (v : Word) : (s.setIdx v).idx = v := rfl
@[simp] theorem State.setIdx_pc (s : State) (v : Word) : (s.setIdx v).pc = s.pc := rfl
@[simp] theorem State.setIdx_sp (s : State) (v : Word) : (s.setIdx v).sp = s.sp := rfl
@[simp] theorem State.setIdx_stack (s : State) (v : Word) : (s.setIdx v).stack = s.stack := rfl
@[simp] theorem State.setIdx_dt (s : State) (v : Word) : (s.setIdx v).dt = s.dt := rfl
@[simp] theorem State.setIdx_st (s : State) (v : Word) : (s.setIdx v).st = s.st := rfl
@[simp] theorem State.setIdx_mem (s : State) (v : Word) : (s.setIdx v).mem = s.mem := rfl
@[simp] theorem State.setIdx_fb (s : State) (v : Word) : (s.setIdx v).fb = s.fb := rfl
@[simp] theorem State.setIdx_fbChanged (s : State) (v : Word) : (s.setIdx v).fbChanged = s.fbChanged := rfl
@[simp] theorem State.setIdx_keys (s : State) (v : Word) : (s.setIdx v).keys = s.keys := rfl
@[simp] theorem State.setIdx_latch (s : State) (v : Word) : (s.setIdx v).latch = s.latch := rfl
@[simp] theorem State.setIdx_draws (s : State) (v : Word) : (s.setIdx v).draws = s.draws := rfl
@[simp] theorem State.setIdx_reg (s : State) (v : Word) (q : RegIdx) : (s.setIdx v).reg q = s.reg q := rfl
@[simp] theorem State.setIdx_byte (s : State) (v : Word) (a : Nat) : (s.setIdx v).byte a = s.byte a := rfl
@[simp] theorem State.setIdx_key (s : State) (v : Word) (q : KeyIdx) : (s.setIdx v).key q = s.key q := rfl
@[simp] theorem State.setIdx_cell (s : State) (v : Word) (i : Fin fbRows) (c : Fin fbCols) : (s.setIdx v).cell i c = s.cell i c := rfl

/-! ### `State.setPc` -/

@[simp] theorem State.setPc_regs (s : State) (v : Word) : (s.setPc v).regs = s.regs := rfl
@[simp] theorem State.setPc_idx (s : State) (v : Word) : (s.setPc v).idx = s.idx := rfl
@[simp] theorem State.setPc_pc (s : State) (v : Word) : (s.setPc v).pc = v := rfl
@[simp] theorem State.setPc_sp (s : State) (v : Word) : (s.setPc v).sp = s.sp := rfl
@[simp] theorem State.setPc_stack (s : State) (v : Word) : (s.setPc v).stack = s.stack := rfl
@[simp] theorem State.setPc_dt (s : State) (v : Word) : (s.setPc v).dt = s.dt := rfl
@[simp] theorem State.setPc_st (s : State) (v : Word) : (s.setPc v).st = s.st := rfl
@[simp] theorem State.setPc_mem (s : State) (v : Word) : (s.setPc v).mem = s.mem := rfl
@[simp] theorem State.setPc_fb (s : State) (v : Word) : (s.setPc v).fb = s.fb := rfl
@[simp] theorem State.setPc_fbChanged (s : State) (v : Word) : (s.setPc v).fbChanged = s.fbChanged := rfl
@[simp] theorem State.setPc_keys (s : State) (v : Word) : (s.setPc v).keys = s.keys := rfl
@[simp] theorem State.setPc_latch (s : State) (v : Word) : (s.setPc v).latch = s.latch := rfl
@[simp] theorem State.setPc_draws (s : State) (v : Word) : (s.setPc v).draws = s.draws := rfl
@[simp] theorem State.setPc_reg (s : State) (v : Word) (q : RegIdx) : (s.setPc v).reg q = s.reg q := rfl
@[simp] theorem State.setPc_byte (s : State) (v : Word) (a : Nat) : (s.setPc v).byte a = s.byte a := rfl
@[simp] theorem State.setPc_key (s : State) (v : Word) (q : KeyIdx) : (s.setPc v).key q = s.key q := rfl
@[simp] theorem State.setPc_cell (s : State) (v : Word) (i : Fin fbRows) (c : Fin fbCols) : (s.setPc v).cell i c = s.cell i c := rfl

/-! ### `State.setStack` -/

@[simp] theorem State.setStack_regs (s : State) (p : Fin 17) (v : Vector Word 16) : (s.setStack p v).regs = s.regs := rfl
@[simp] theorem State.setStack_idx (s : State) (p : Fin 17) (v : Vector Word 16) : (s.setStack p v).idx = s.idx := rfl
@[simp] theorem State.setStack_pc (s : State) (p : Fin 17) (v : Vector Word 16) : (s.setStack p v).pc = s.pc := rfl
@[simp] theorem State.setStack_sp (s : State) (p : Fin 17) (v : Vector Word 16) : (s.setStack p v).sp = p := rfl
@[simp] theorem State.setStack_stack (s : State) (p : Fin 17) (v : Vector Word 16) : (s.setStack p v).stack = v := rfl
@[simp] theorem State.setStack_dt (s : State) (p : Fin 17) (v : Vector Word 16) : (s.setStack p v).dt = s.dt := rfl
@[simp] theorem State.setStack_st (s : State) (p : Fin 17) (v : Vector Word 16) : (s.setStack p v).st = s.st := rfl
@[simp] theorem State.setStack_mem (s : State) (p : Fin 17) (v : Vector Word 16) : (s.setStack p v).mem = s.mem := rfl
@[simp] theorem State.setStack_fb (s : State) (p : Fin 17) (v : Vector Word 16) : (s.setStack p v).fb = s.fb := rfl
@[simp] theorem State.setStack_fbChanged (s : State) (p : Fin 17) (v : Vector Word 16) : (s.setStack p v).fbChanged = s.fbChanged := rfl
@[simp] theorem State.setStack_keys (s : State) (p : Fin 17) (v : Vector Word 16) : (s.setStack p v).keys = s.keys := rfl
@[simp] theorem State.setStack_latch (s : State) (p : Fin 17) (v : Vector Word 16) : (s.setStack p v).latch = s.latch := rfl
@[simp] theorem State.setStack_draws (s : State) (p : Fin 17) (v : Vector Word 16) : (s.setStack p v).draws = s.draws := rfl
@[simp] theorem State.setStack_reg (s : State) (p : Fin 17) (v : Vector Word 16) (q : RegIdx) : (s.setStack p v).reg q = s.reg q := rfl
@[simp] theorem State.setStack_byte (s : State) (p : Fin 17) (v : Vector Word 16) (a : Nat) : (s.setStack p v).byte a = s.byte a := rfl
@[simp] theorem State.setStack_key (s : State) (p : Fin 17) (v : Vector Word 16) (q : KeyIdx) : (s.setStack p v).key q = s.key q := rfl
@[simp] theorem State.setStack_cell (s : State) (p : Fin 17) (v : Vector Word 16) (i : Fin fbRows) (c : Fin fbCols) : (s.setStack p v).cell i c = s.cell i c := rfl

/-! ### `State.setDt` -/

@[simp] theorem State.setDt_regs (s : State) (v : Byte) : (s.setDt v).regs = s.regs := rfl
@[simp] theorem State.setDt_idx (s : State) (v : Byte) : (s.setDt v).idx = s.idx := rfl
@[simp] theorem State.setDt_pc (s : State) (v : Byte) : (s.setDt v).pc = s.pc := rfl
@[simp] theorem State.setDt_sp (s : State) (v : Byte) : (s.setDt v).sp = s.sp := rfl
@[simp] theorem State.setDt_stack (s : State) (v : Byte) : (s.setDt v).stack = s.stack := rfl
@[simp] theorem State.setDt_dt (s : State) (v : Byte) : (s.setDt v).dt = v := rfl
@[simp] theorem State.setDt_st (s : State) (v : Byte) : (s.setDt v).st = s.st := rfl
@[simp] theorem State.setDt_mem (s : State) (v : Byte) : (s.setDt v).mem = s.mem := rfl
@[simp] theorem State.setDt_fb (s : State) (v : Byte) : (s.setDt v).fb = s.fb := rfl
@[simp] theorem State.setDt_fbChanged (s : State) (v : Byte) : (s.setDt v).fbChanged = s.fbChanged := rfl
@[simp] theorem State.setDt_keys (s : State) (v : Byte) : (s.setDt v).keys = s.keys := rfl
@[simp] theorem State.setDt_latch (s : State) (v : Byte) : (s.setDt v).latch = s.latch := rfl
@[simp] theorem State.setDt_draws (s : State) (v : Byte) : (s.setDt v).draws = s.draws := rfl
@[simp] theorem State.setDt_reg (s : State) (v : Byte) (q : RegIdx) : (s.setDt v).reg q = s.reg q := rfl
@[simp] theorem State.setDt_byte (s : State) (v : Byte) (a : Nat) : (s.setDt v).byte a = s.byte a := rfl
@[simp] theorem State.setDt_key (s : State) (v : Byte) (q : KeyIdx) : (s.setDt v).key q = s.key q := rfl
@[simp] theorem State.setDt_cell (s : State) (v : Byte) (i : Fin fbRows) (c : Fin fbCols) : (s.setDt v).cell i c = s.cell i c := rfl

/-! ### `State.setSt` -/

@[simp] theorem State.setSt_regs (s : State) (v : Byte) : (s.setSt v).regs = s.regs := rfl
@[simp] theorem State.setSt_idx (s : State) (v : Byte) : (s.setSt v).idx = s.idx := rfl
@[simp] theorem State.setSt_pc (s : State) (v : Byte) : (s.setSt v).pc = s.pc := rfl
@[simp] theorem State.setSt_sp (s : State) (v : Byte) : (s.setSt v).sp = s.sp := rfl
@[simp] theorem State.setSt_stack (s : State) (v : Byte) : (s.setSt v).stack = s.stack := rfl
@[simp] theorem State.setSt_dt (s : State) (v : Byte) : (s.setSt v).dt = s.dt := rfl
@[simp] theorem State.setSt_st (s : State) (v : Byte) : (s.setSt v).st = v := rfl
@[simp] theorem State.setSt_mem (s : State) (v : Byte) : (s.setSt v).mem = s.mem := rfl
@[simp] theorem State.setSt_fb (s : State) (v : Byte) : (s.setSt v).fb = s.fb := rfl
@[simp] theorem State.setSt_fbChanged (s : State) (v : Byte) : (s.setSt v).fbChanged = s.fbChanged := rfl
@[simp] theorem State.setSt_keys (s : State) (v : Byte) : (s.setSt v).keys = s.keys := rfl
@[simp] theorem State.setSt_latch (s : State) (v : Byte) : (s.setSt v).latch = s.latch := rfl
@[simp] theorem State.setSt_draws (s : State) (v : Byte) : (s.setSt v).draws = s.draws := rfl
@[simp] theorem State.setSt_reg (s : State) (v : Byte) (q : RegIdx) : (s.setSt v).reg q = s.reg q := rfl
@[simp] theorem State.setSt_byte (s : State) (v : Byte) (a : Nat) : (s.setSt v).byte a = s.byte a := rfl
@[simp] theorem State.setSt_key (s : State) (v : Byte) (q : KeyIdx) : (s.setSt v).key q = s.key q := rfl
@[simp] theorem State.setSt_cell (s : State) (v : Byte) (i : Fin fbRows) (c : Fin fbCols) : (s.setSt v).cell i c = s.cell i c := rfl

/-! ### `State.setMem` -/

@[simp] theorem State.setMem_regs (s : State) (m : Memory) : (s.setMem m).regs = s.regs := rfl
@[simp] theorem State.setMem_idx (s : State) (m : Memory) : (s.setMem m).idx = s.idx := rfl
@[simp] theorem State.setMem_pc (s : State) (m : Memory) : (s.setMem m).pc = s.pc := rfl
@[simp] theorem State.setMem_sp (s : State) (m : Memory) : (s.setMem m).sp = s.sp := rfl
@[simp] theorem State.setMem_stack (s : State) (m : Memory) : (s.setMem m).stack = s.stack := rfl
@[simp] theorem State.setMem_dt (s : State) (m : Memory) : (s.setMem m).dt = s.dt := rfl
@[simp] theorem State.setMem_st (s : State) (m : Memory) : (s.setMem m).st = s.st := rfl
@[simp] theorem State.setMem_mem (s : State) (m : Memory) : (s.setMem m).mem = m := rfl
@[simp] theorem State.setMem_fb (s : State) (m : Memory) : (s.setMem m).fb = s.fb := rfl
@[simp] theorem State.setMem_fbChanged (s : State) (m : Memory) : (s.setMem m).fbChanged = s.fbChanged := rfl
@[simp] theorem State.setMem_keys (s : State) (m : Memory) : (s.setMem m).keys = s.keys := rfl
@[simp] theorem State.setMem_latch (s : State) (m : Memory) : (s.setMem m).latch = s.latch := rfl
@[simp] theorem State.setMem_draws (s : State) (m : Memory) : (s.setMem m).draws = s.draws := rfl
@[simp] theorem State.setMem_reg (s : State) (m : Memory) (q : RegIdx) : (s.setMem m).reg q = s.reg q := rfl
@[simp] theorem State.setMem_key (s : State) (m : Memory) (q : KeyIdx) : (s.setMem m).key q = s.key q := rfl
@[simp] theorem State.setMem_cell (s : State) (m : Memory) (i : Fin fbRows) (c : Fin fbCols) : (s.setMem m).cell i c = s.cell i c := rfl

/-! ### `State.setFb` -/

@[simp] theorem State.setFb_regs (s : State) (v : Framebuffer) : (s.setFb v).regs = s.regs := rfl
@[simp] theorem State.setFb_idx (s : State) (v : Framebuffer) : (s.setFb v).idx = s.idx := rfl
@[simp] theorem State.setFb_pc (s : State) (v : Framebuffer) : (s.setFb v).pc = s.pc := rfl
@[simp] theorem State.setFb_sp (s : State) (v : Framebuffer) : (s.setFb v).sp = s.sp := rfl
@[simp] theorem State.setFb_stack (s : State) (v : Framebuffer) : (s.setFb v).stack = s.stack := rfl
@[simp] theorem State.setFb_dt (s : State) (v : Framebuffer) : (s.setFb v).dt = s.dt := rfl
@[simp] theorem State.setFb_st (s : State) (v : Framebuffer) : (s.setFb v).st = s.st := rfl
@[simp] theorem State.setFb_mem (s : State) (v : Framebuffer) : (s.setFb v).mem = s.mem := rfl
@[simp] theorem State.setFb_fb (s : State) (v : Framebuffer) : (s.setFb v).fb = v := rfl
@[simp] theorem State.setFb_fbChanged (s : State) (v : Framebuffer) : (s.setFb v).fbChanged = s.fbChanged := rfl
@[simp] theorem State.setFb_keys (s : State) (v : Framebuffer) : (s.setFb v).keys = s.keys := rfl
@[simp] theorem State.setFb_latch (s : State) (v : Framebuffer) : (s.setFb v).latch = s.latch := rfl
@[simp] theorem State.setFb_draws (s : State) (v : Framebuffer) : (s.setFb v).draws = s.draws := rfl
@[simp] theorem State.setFb_reg (s : State) (v : Framebuffer) (q : RegIdx) : (s.setFb v).reg q = s.reg q := rfl
@[simp] theorem State.setFb_byte (s : State) (v : Framebuffer) (a : Nat) : (s.setFb v).byte a = s.byte a := rfl
@[simp] theorem State.setFb_key (s : State) (v : Framebuffer) (q : KeyIdx) : (s.setFb v).key q = s.key q := rfl

/-! ### `State.setFbChanged` -/

@[simp] theorem State.setFbChanged_regs (s : State) (b : Bool) : (s.setFbChanged b).regs = s.regs := rfl
@[simp] theorem State.setFbChanged_idx (s : State) (b : Bool) : (s.setFbChanged b).idx = s.idx := rfl
@[simp] theorem State.setFbChanged_pc (s : State) (b : Bool) : (s.setFbChanged b).pc = s.pc := rfl
@[simp] theorem State.setFbChanged_sp (s : State) (b : Bool) : (s.setFbChanged b).sp = s.sp := rfl
@[simp] theorem State.setFbChanged_stack (s : State) (b : Bool) : (s.setFbChanged b).stack = s.stack := rfl
@[simp] theorem State.setFbChanged_dt (s : State) (b : Bool) : (s.setFbChanged b).dt = s.dt := rfl
@[simp] theorem State.setFbChanged_st (s : State) (b : Bool) : (s.setFbChanged b).st = s.st := rfl
@[simp] theorem State.setFbChanged_mem (s : State) (b : Bool) : (s.setFbChanged b).mem = s.mem := rfl
@[simp] theorem State.setFbChanged_fb (s : State) (b : Bool) : (s.setFbChanged b).fb = s.fb := rfl
@[simp] theorem State.setFbChanged_fbChanged (s : State) (b : Bool) : (s.setFbChanged b).fbChanged = b := rfl
@[simp] theorem State.setFbChanged_keys (s : State) (b : Bool) : (s.setFbChanged b).keys = s.keys := rfl
@[simp] theorem State.setFbChanged_latch (s : State) (b : Bool) : (s.setFbChanged b).latch = s.latch := rfl
@[simp] theorem State.setFbChanged_draws (s : State) (b : Bool) : (s.setFbChanged b).draws = s.draws := rfl
@[simp] theorem State.setFbChanged_reg (s : State) (b : Bool) (q : RegIdx) : (s.setFbChanged b).reg q = s.reg q := rfl
@[simp] theorem State.setFbChanged_byte (s : State) (b : Bool) (a : Nat) : (s.setFbChanged b).byte a = s.byte a := rfl
@[simp] theorem State.setFbChanged_key (s : State) (b : Bool) (q : KeyIdx) : (s.setFbChanged b).key q = s.key q := rfl
@[simp] theorem State.setFbChanged_cell (s : State) (b : Bool) (i : Fin fbRows) (c : Fin fbCols) : (s.setFbChanged b).cell i c = s.cell i c := rfl

/-! ### `State.setKey` -/

@[simp] theorem State.setKey_regs (s : State) (k : KeyIdx) (b : Bool) : (s.setKey k b).regs = s.regs := rfl
@[simp] theorem State.setKey_idx (s : State) (k : KeyIdx) (b : Bool) : (s.setKey k b).idx = s.idx := rfl
@[simp] theorem State.setKey_pc (s : State) (k : KeyIdx) (b : Bool) : (s.setKey k b).pc = s.pc := rfl
@[simp] theorem State.setKey_sp (s : State) (k : KeyIdx) (b : Bool) : (s.setKey k b).sp = s.sp := rfl
@[simp] theorem State.setKey_stack (s : State) (k : KeyIdx) (b : Bool) : (s.setKey k b).stack = s.stack := rfl
@[simp] theorem State.setKey_dt (s : State) (k : KeyIdx) (b : Bool) : (s.setKey k b).dt = s.dt := rfl
@[simp] theorem State.setKey_st (s : State) (k : KeyIdx) (b : Bool) : (s.setKey k b).st = s.st := rfl
@[simp] theorem State.setKey_mem (s : State) (k : KeyIdx) (b : Bool) : (s.setKey k b).mem = s.mem := rfl
@[simp] theorem State.setKey_fb (s : State) (k : KeyIdx) (b : Bool) : (s.setKey k b).fb = s.fb := rfl
@[simp] theorem State.setKey_fbChanged (s : State) (k : KeyIdx) (b : Bool) : (s.setKey k b).fbChanged = s.fbChanged := rfl
@[simp] theorem State.setKey_keys (s : State) (k : KeyIdx) (b : Bool) : (s.setKey k b).keys = s.keys.set k b := rfl
@[simp] theorem State.setKey_latch (s : State) (k : KeyIdx) (b : Bool) : (s.setKey k b).latch = s.latch := rfl
@[simp] theorem State.setKey_draws (s : State) (k : KeyIdx) (b : Bool) : (s.setKey k b).draws = s.draws := rfl
@[simp] theorem State.setKey_reg (s : State) (k : KeyIdx) (b : Bool) (q : RegIdx) : (s.setKey k b).reg q = s.reg q := rfl
@[simp] theorem State.setKey_byte (s : State) (k : KeyIdx) (b : Bool) (a : Nat) : (s.setKey k b).byte a = s.byte a := rfl
@[simp] theorem State.setKey_cell (s : State) (k : KeyIdx) (b : Bool) (i : Fin fbRows) (c : Fin fbCols) : (s.setKey k b).cell i c = s.cell i c := rfl

/-! ### `State.setLatch` -/

@[simp] theorem State.setLatch_regs (s : State) (l : Latch) : (s.setLatch l).regs = s.regs := rfl
@[simp] theorem State.setLatch_idx (s : State) (l : Latch) : (s.setLatch l).idx = s.idx := rfl
@[simp] theorem State.setLatch_pc (s : State) (l : Latch) : (s.setLatch l).pc = s.pc := rfl
@[simp] theorem State.setLatch_sp (s : State) (l : Latch) : (s.setLatch l).sp = s.sp := rfl
@[simp] theorem State.setLatch_stack (s : State) (l : Latch) : (s.setLatch l).stack = s.stack := rfl
@[simp] theorem State.setLatch_dt (s : State) (l : Latch) : (s.setLatch l).dt = s.dt := rfl
@[simp] theorem State.setLatch_st (s : State) (l : Latch) : (s.setLatch l).st = s.st := rfl
@[simp] theorem State.setLatch_mem (s : State) (l : Latch) : (s.setLatch l).mem = s.mem := rfl
@[simp] theorem State.setLatch_fb (s : State) (l : Latch) : (s.setLatch l).fb = s.fb := rfl
@[simp] theorem State.setLatch_fbChanged (s : State) (l : Latch) : (s.setLatch l).fbChanged = s.fbChanged := rfl
@[simp] theorem State.setLatch_keys (s : State) (l : Latch) : (s.setLatch l).keys = s.keys := rfl
@[simp] theorem State.setLatch_latch (s : State) (l : Latch) : (s.setLatch l).latch = l := rfl
@[simp] theorem State.setLatch_draws (s : State) (l : Latch) : (s.setLatch l).draws = s.draws := rfl
@[simp] theorem State.setLatch_reg (s : State) (l : Latch) (q : RegIdx) : (s.setLatch l).reg q = s.reg q := rfl
@[simp] theorem State.setLatch_byte (s : State) (l : Latch) (a : Nat) : (s.setLatch l).byte a = s.byte a := rfl
@[simp] theorem State.setLatch_key (s : State) (l : Latch) (q : KeyIdx) : (s.setLatch l).key q = s.key q := rfl
@[simp] theorem State.setLatch_cell (s : State) (l : Latch) (i : Fin fbRows) (c : Fin fbCols) : (s.setLatch l).cell i c = s.cell i c := rfl

/-! ### `State.setDraws` -/

@[simp] theorem State.setDraws_regs (s : State) (n : Nat) : (s.setDraws n).regs = s.regs := rfl
@[simp] theorem State.setDraws_idx (s : State) (n : Nat) : (s.setDraws n).idx = s.idx := rfl
@[simp] theorem State.setDraws_pc (s : State) (n : Nat) : (s.setDraws n).pc = s.pc := rfl
@[simp] theorem State.setDraws_sp (s : State) (n : Nat) : (s.setDraws n).sp = s.sp := rfl
@[simp] theorem State.setDraws_stack (s : State) (n : Nat) : (s.setDraws n).stack = s.stack := rfl
@[simp] theorem State.setDraws_dt (s : State) (n : Nat) : (s.setDraws n).dt = s.dt := rfl
@[simp] theorem State.setDraws_st (s : State) (n : Nat) : (s.setDraws n).st = s.st := rfl
@[simp] theorem State.setDraws_mem (s : State) (n : Nat) : (s.setDraws n).mem = s.mem := rfl
@[simp] theorem State.setDraws_fb (s : State) (n : Nat) : (s.setDraws n).fb = s.fb := rfl
@[simp] theorem State.setDraws_fbChanged (s : State) (n : Nat) : (s.setDraws n).fbChanged = s.fbChanged := rfl
@[simp] theorem State.setDraws_keys (s : State) (n : Nat) : (s.setDraws n).keys = s.keys := rfl
@[simp] theorem State.setDraws_latch (s : State) (n : Nat) : (s.setDraws n).latch = s.latch := rfl
@[simp] theorem State.setDraws_draws (s : State) (n : Nat) : (s.setDraws n).draws = n := rfl
@[simp] theorem State.setDraws_reg (s : State) (n : Nat) (q : RegIdx) : (s.setDraws n).reg q = s.reg q := rfl
@[simp] theorem State.setDraws_byte (s : State) (n : Nat) (a : Nat) : (s.setDraws n).byte a = s.byte a := rfl
@[simp] theorem State.setDraws_key (s : State) (n : Nat) (q : KeyIdx) : (s.setDraws n).key q = s.key q := rfl
@[simp] theorem State.setDraws_cell (s : State) (n : Nat) (i : Fin fbRows) (c : Fin fbCols) : (s.setDraws n).cell i c = s.cell i c := rfl

/-! ### `State.advance` -/

@[simp] theorem State.advance_regs (s : State) : (s.advance).regs = s.regs := rfl
@[simp] theorem State.advance_idx (s : State) : (s.advance).idx = s.idx := rfl
@[simp] theorem State.advance_pc (s : State) : (s.advance).pc = s.pc + 2 := rfl
@[simp] theorem State.advance_sp (s : State) : (s.advance).sp = s.sp := rfl
@[simp] theorem State.advance_stack (s : State) : (s.advance).stack = s.stack := rfl
@[simp] theorem State.advance_dt (s : State) : (s.advance).dt = s.dt := rfl
@[simp] theorem State.advance_st (s : State) : (s.advance).st = s.st := rfl
@[simp] theorem State.advance_mem (s : State) : (s.advance).mem = s.mem := rfl
@[simp] theorem State.advance_fb (s : State) : (s.advance).fb = s.fb := rfl
@[simp] theorem State.advance_fbChanged (s : State) : (s.advance).fbChanged = s.fbChanged := rfl
@[simp] theorem State.advance_keys (s : State) : (s.advance).keys = s.keys := rfl
@[simp] theorem State.advance_latch (s : State) : (s.advance).latch = s.latch := rfl
@[simp] theorem State.advance_draws (s : State) : (s.advance).draws = s.draws := rfl
@[simp] theorem State.advance_reg (s : State) (q : RegIdx) : (s.advance).reg q = s.reg q := rfl
@[simp] theorem State.advance_byte (s : State) (a : Nat) : (s.advance).byte a = s.byte a := rfl
@[simp] theorem State.advance_key (s : State) (q : KeyIdx) : (s.advance).key q = s.key q := rfl
@[simp] theorem State.advance_cell (s : State) (i : Fin fbRows) (c : Fin fbCols) : (s.advance).cell i c = s.cell i c := rfl

/-! ### `State.setFlag` -/

@[simp] theorem State.setFlag_idx (s : State) (b : Bool) : (s.setFlag b).idx = s.idx := rfl
@[simp] theorem State.setFlag_pc (s : State) (b : Bool) : (s.setFlag b).pc = s.pc := rfl
@[simp] theorem State.setFlag_sp (s : State) (b : Bool) : (s.setFlag b).sp = s.sp := rfl
@[simp] theorem State.setFlag_stack (s : State) (b : Bool) : (s.setFlag b).stack = s.stack := rfl
@[simp] theorem State.setFlag_dt (s : State) (b : Bool) : (s.setFlag b).dt = s.dt := rfl
@[simp] theorem State.setFlag_st (s : State) (b : Bool) : (s.setFlag b).st = s.st := rfl
@[simp] theorem State.setFlag_mem (s : State) (b : Bool) : (s.setFlag b).mem = s.mem := rfl
@[simp] theorem State.setFlag_fb (s : State) (b : Bool) : (s.setFlag b).fb = s.fb := rfl
@[simp] theorem State.setFlag_fbChanged (s : State) (b : Bool) : (s.setFlag b).fbChanged = s.fbChanged := rfl
@[simp] theorem State.setFlag_keys (s : State) (b : Bool) : (s.setFlag b).keys = s.keys := rfl
@[simp] theorem State.setFlag_latch (s : State) (b : Bool) : (s.setFlag b).latch = s.latch := rfl
@[simp] theorem State.setFlag_draws (s : State) (b : Bool) : (s.setFlag b).draws = s.draws := rfl
@[simp] theorem State.setFlag_byte (s : State) (b : Bool) (a : Nat) : (s.setFlag b).byte a = s.byte a := rfl
@[simp] theorem State.setFlag_key (s : State) (b : Bool) (q : KeyIdx) : (s.setFlag b).key q = s.key q := rfl
@[simp] theorem State.setFlag_cell (s : State) (b : Bool) (i : Fin fbRows) (c : Fin fbCols) : (s.setFlag b).cell i c = s.cell i c := rfl

/-! ### `State.writeResultFlag` -/

@[simp] theorem State.writeResultFlag_idx (s : State) (x : RegIdx) (v : Byte) (b : Bool) : (s.writeResultFlag x v b).idx = s.idx := rfl
@[simp] theorem State.writeResultFlag_pc (s : State) (x : RegIdx) (v : Byte) (b : Bool) : (s.writeResultFlag x v b).pc = s.pc := rfl
@[simp] theorem State.writeResultFlag_sp (s : State) (x : RegIdx) (v : Byte) (b : Bool) : (s.writeResultFlag x v b).sp = s.sp := rfl
@[simp] theorem State.writeResultFlag_stack (s : State) (x : RegIdx) (v : Byte) (b : Bool) : (s.writeResultFlag x v b).stack = s.stack := rfl
@[simp] theorem State.writeResultFlag_dt (s : State) (x : RegIdx) (v : Byte) (b : Bool) : (s.writeResultFlag x v b).dt = s.dt := rfl
@[simp] theorem State.writeResultFlag_st (s : State) (x : RegIdx) (v : Byte) (b : Bool) : (s.writeResultFlag x v b).st = s.st := rfl
@[simp] theorem State.writeResultFlag_mem (s : State) (x : RegIdx) (v : Byte) (b : Bool) : (s.writeResultFlag x v b).mem = s.mem := rfl
@[simp] theorem State.writeResultFlag_fb (s : State) (x : RegIdx) (v : Byte) (b : Bool) : (s.writeResultFlag x v b).fb = s.fb := rfl
@[simp] theorem State.writeResultFlag_fbChanged (s : State) (x : RegIdx) (v : Byte) (b : Bool) : (s.writeResultFlag x v b).fbChanged = s.fbChanged := rfl
@[simp] theorem State.writeResultFlag_keys (s : State) (x : RegIdx) (v : Byte) (b : Bool) : (s.writeResultFlag x v b).keys = s.keys := rfl
@[simp] theorem State.writeResultFlag_latch (s : State) (x : RegIdx) (v : Byte) (b : Bool) : (s.writeResultFlag x v b).latch = s.latch := rfl
@[simp] theorem State.writeResultFlag_draws (s : State) (x : RegIdx) (v : Byte) (b : Bool) : (s.writeResultFlag x v b).draws = s.draws := rfl
@[simp] theorem State.writeResultFlag_byte (s : State) (x : RegIdx) (v : Byte) (b : Bool) (a : Nat) : (s.writeResultFlag x v b).byte a = s.byte a := rfl
@[simp] theorem State.writeResultFlag_key (s : State) (x : RegIdx) (v : Byte) (b : Bool) (q : KeyIdx) : (s.writeResultFlag x v b).key q = s.key q := rfl
@[simp] theorem State.writeResultFlag_cell (s : State) (x : RegIdx) (v : Byte) (b : Bool) (i : Fin fbRows) (c : Fin fbCols) : (s.writeResultFlag x v b).cell i c = s.cell i c := rfl

/-! ### `State.writeFlagResult` -/

@[simp] theorem State.writeFlagResult_idx (s : State) (x : RegIdx) (v : Byte) (b : Bool) : (s.writeFlagResult x v b).idx = s.idx := rfl
@[simp] theorem State.writeFlagResult_pc (s : State) (x : RegIdx) (v : Byte) (b : Bool) : (s.writeFlagResult x v b).pc = s.pc := rfl
@[simp] theorem State.writeFlagResult_sp (s : State) (x : RegIdx) (v : Byte) (b : Bool) : (s.writeFlagResult x v b).sp = s.sp := rfl
@[simp] theorem State.writeFlagResult_stack (s : State) (x : RegIdx) (v : Byte) (b : Bool) : (s.writeFlagResult x v b).stack = s.stack := rfl
@[simp] theorem State.writeFlagResult_dt (s : State) (x : RegIdx) (v : Byte) (b : Bool) : (s.writeFlagResult x v b).dt = s.dt := rfl
@[simp] theorem State.writeFlagResult_st (s : State) (x : RegIdx) (v : Byte) (b : Bool) : (s.writeFlagResult x v b).st = s.st := rfl
@[simp] theorem State.writeFlagResult_mem (s : State) (x : RegIdx) (v : Byte) (b : Bool) : (s.writeFlagResult x v b).mem = s.mem := rfl
@[simp] theorem State.writeFlagResult_fb (s : State) (x : RegIdx) (v : Byte) (b : Bool) : (s.writeFlagResult x v b).fb = s.fb := rfl
@[simp] theorem State.writeFlagResult_fbChanged (s : State) (x : RegIdx) (v : Byte) (b : Bool) : (s.writeFlagResult x v b).fbChanged = s.fbChanged := rfl
@[simp] theorem State.writeFlagResult_keys (s : State) (x : RegIdx) (v : Byte) (b : Bool) : (s.writeFlagResult x v b).keys = s.keys := rfl
@[simp] theorem State.writeFlagResult_latch (s : State) (x : RegIdx) (v : Byte) (b : Bool) : (s.writeFlagResult x v b).latch = s.latch := rfl
@[simp] theorem State.writeFlagResult_draws (s : State) (x : RegIdx) (v : Byte) (b : Bool) : (s.writeFlagResult x v b).draws = s.draws := rfl
@[simp] theorem State.writeFlagResult_byte (s : State) (x : RegIdx) (v : Byte) (b : Bool) (a : Nat) : (s.writeFlagResult x v b).byte a = s.byte a := rfl
@[simp] theorem State.writeFlagResult_key (s : State) (x : RegIdx) (v : Byte) (b : Bool) (q : KeyIdx) : (s.writeFlagResult x v b).key q = s.key q := rfl
@[simp] theorem State.writeFlagResult_cell (s : State) (x : RegIdx) (v : Byte) (b : Bool) (i : Fin fbRows) (c : Fin fbCols) : (s.writeFlagResult x v b).cell i c = s.cell i c := rfl

/-! ### `State.skipIf` -/

@[simp] theorem State.skipIf_regs (s : State) (b : Bool) : (s.skipIf b).regs = s.regs := by cases b <;> rfl
@[simp] theorem State.skipIf_idx (s : State) (b : Bool) : (s.skipIf b).idx = s.idx := by cases b <;> rfl
@[simp] theorem State.skipIf_pc (s : State) (b : Bool) : (s.skipIf b).pc = if b then s.pc + 2 else s.pc := by cases b <;> rfl
@[simp] theorem State.skipIf_sp (s : State) (b : Bool) : (s.skipIf b).sp = s.sp := by cases b <;> rfl
@[simp] theorem State.skipIf_stack (s : State) (b : Bool) : (s.skipIf b).stack = s.stack := by cases b <;> rfl
@[simp] theorem State.skipIf_dt (s : State) (b : Bool) : (s.skipIf b).dt = s.dt := by cases b <;> rfl
@[simp] theorem State.skipIf_st (s : State) (b : Bool) : (s.skipIf b).st = s.st := by cases b <;> rfl
@[simp] theorem State.skipIf_mem (s : State) (b : Bool) : (s.skipIf b).mem = s.mem := by cases b <;> rfl
@[simp] theorem State.skipIf_fb (s : State) (b : Bool) : (s.skipIf b).fb = s.fb := by cases b <;> rfl
@[simp] theorem State.skipIf_fbChanged (s : State) (b : Bool) : (s.skipIf b).fbChanged = s.fbChanged := by cases b <;> rfl
@[simp] theorem State.skipIf_keys (s : State) (b : Bool) : (s.skipIf b).keys = s.keys := by cases b <;> rfl
@[simp] theorem State.skipIf_latch (s : State) (b : Bool) : (s.skipIf b).latch = s.latch := by cases b <;> rfl
@[simp] theorem State.skipIf_draws (s : State) (b : Bool) : (s.skipIf b).draws = s.draws := by cases b <;> rfl
@[simp] theorem State.skipIf_reg (s : State) (b : Bool) (q : RegIdx) : (s.skipIf b).reg q = s.reg q := by cases b <;> rfl
@[simp] theorem State.skipIf_byte (s : State) (b : Bool) (a : Nat) : (s.skipIf b).byte a = s.byte a := by cases b <;> rfl
@[simp] theorem State.skipIf_key (s : State) (b : Bool) (q : KeyIdx) : (s.skipIf b).key q = s.key q := by cases b <;> rfl
@[simp] theorem State.skipIf_cell (s : State) (b : Bool) (i : Fin fbRows) (c : Fin fbCols) : (s.skipIf b).cell i c = s.cell i c := by cases b <;> rfl

/-! ### Reading back what was written -/

@[simp] theorem State.setReg_reg (s : State) (r : RegIdx) (v : Byte) (q : RegIdx) :
    (s.setReg r v).reg q = if q = r then v else s.reg q := by
  simp only [State.reg, State.setReg, Fin.getElem_fin, Vector.getElem_set, Fin.ext_iff, eq_comm]

@[simp] theorem State.setRegs_reg (s : State) (v : Vector Byte 16) (q : RegIdx) : (s.setRegs v).reg q = v[q] := rfl

@[simp] theorem State.setKey_key (s : State) (k : KeyIdx) (b : Bool) (q : KeyIdx) :
    (s.setKey k b).key q = if q = k then b else s.key q := by
  simp only [State.key, State.setKey, Fin.getElem_fin, Vector.getElem_set, Fin.ext_iff, eq_comm]

@[simp] theorem State.setMem_byte (s : State) (m : Memory) (a : Nat) : (s.setMem m).byte a = Memory.read m a := rfl

@[simp] theorem State.setFb_cell (s : State) (v : Framebuffer) (r : Fin fbRows) (c : Fin fbCols) :
    (s.setFb v).cell r c = (v[r])[c] := rfl

@[simp] theorem State.setFlag_reg (s : State) (b : Bool) (q : RegIdx) :
    (s.setFlag b).reg q = if q = flagReg then flagByte b else s.reg q := by
  simp [State.setFlag]

/-- Result then flag: the flag is what register 15 holds. -/
@[simp] theorem State.writeResultFlag_reg (s : State) (x : RegIdx) (v : Byte) (b : Bool) (q : RegIdx) :
    (s.writeResultFlag x v b).reg q = if q = flagReg then flagByte b else if q = x then v else s.reg q := by
  simp [State.writeResultFlag]

/-- Flag then result: the result is what register `x` holds, register 15 too. -/
@[simp] theorem State.writeFlagResult_reg (s : State) (x : RegIdx) (v : Byte) (b : Bool) (q : RegIdx) :
    (s.writeFlagResult x v b).reg q = if q = x then v else if q = flagReg then flagByte b else s.reg q := by
  simp [State.writeFlagResult]

/-- The bytes after writing one byte through the state are those of memory. -/
theorem State.byte_eq (s : State) (a : Nat) : s.byte a = Memory.read s.mem a := rfl

end Sys2Proof.Machine
end

