-- ==== Sys2Proof/Laws/Display.lean ====
section
/-! SUPPORT. The drawing loop, cell by cell: a cell is visited at most once (45_display.md R172, corner case b). -/

namespace Sys2Proof.Machine

/-- One cell of a framebuffer. -/
abbrev fbCell (fb : Framebuffer) (r : Fin fbRows) (c : Fin fbCols) : Bool := (fb[r])[c]

theorem flipCell_cell (acc : Framebuffer × Bool) (r r' : Fin fbRows) (c c' : Fin fbCols) :
    fbCell (flipCell acc r c).1 r' c' = if r' = r ∧ c' = c then !fbCell acc.1 r c else fbCell acc.1 r' c' := by
  simp only [fbCell, flipCell, Fin.getElem_fin, Vector.getElem_set, Fin.ext_iff]
  by_cases hr : r.val = r'.val
  · have : r = r' := Fin.ext hr
    subst this
    simp only [ite_true, Vector.getElem_set, true_and, eq_comm]
  · simp [hr, Ne.symm hr]

theorem flipCell_flag (acc : Framebuffer × Bool) (r : Fin fbRows) (c : Fin fbCols) :
    (flipCell acc r c).2 = (acc.2 || fbCell acc.1 r c) := rfl

/-- A set bit among the sprite columns `j` to `j + k - 1` stands on column `c`. -/
def columnHit (row : Byte) (px j k : Nat) (c : Fin fbCols) : Prop :=
  ∃ i, j ≤ i ∧ i < j + k ∧ spriteBit row i = true ∧ wrapCol (px + i) = c

theorem columnHit_zero (row : Byte) (px j : Nat) (c : Fin fbCols) : ¬ columnHit row px j 0 c := by
  rintro ⟨i, hi, hi', -⟩
  omega

theorem columnHit_succ (row : Byte) (px j k : Nat) (c : Fin fbCols) :
    columnHit row px j (k + 1) c ↔
      (spriteBit row j = true ∧ wrapCol (px + j) = c) ∨ columnHit row px (j + 1) k c := by
  constructor
  · rintro ⟨i, hi, hi', hb, hc⟩
    by_cases h : i = j
    · subst h; exact .inl ⟨hb, hc⟩
    · exact .inr ⟨i, by omega, by omega, hb, hc⟩
  · rintro (⟨hb, hc⟩ | ⟨i, hi, hi', hb, hc⟩)
    · exact ⟨j, le_refl _, by omega, hb, hc⟩
    · exact ⟨i, by omega, by omega, hb, hc⟩

theorem columnHit_ne (row : Byte) (px j k : Nat) (hk : k < 64) : ¬ columnHit row px (j + 1) k (wrapCol (px + j)) := by
  rintro ⟨i, hi, hi', -, hc⟩
  have := Fin.ext_iff.mp hc
  simp only [wrapCol] at this
  omega

/-- Drawing one sprite row flips the cells under its set bits, each once, and reports whether one of them was 1. -/
theorem drawColumns_spec (row : Byte) (r : Fin fbRows) (px j k : Nat) (hk : k ≤ 64) (acc : Framebuffer × Bool) :
    (∀ r' c', (r' = r ∧ columnHit row px j k c' →
        fbCell (drawColumns row r px j k acc).1 r' c' = !fbCell acc.1 r' c') ∧
      (¬ (r' = r ∧ columnHit row px j k c') →
        fbCell (drawColumns row r px j k acc).1 r' c' = fbCell acc.1 r' c')) ∧
    ((drawColumns row r px j k acc).2 = true ↔
      acc.2 = true ∨ ∃ c, columnHit row px j k c ∧ fbCell acc.1 r c = true) := by
  induction k generalizing j acc with
  | zero => simp [drawColumns, columnHit_zero]
  | succ k ih =>
    simp only [drawColumns, columnHit_succ]
    have hne := columnHit_ne row px j k (by omega)
    by_cases hb : spriteBit row j = true
    · obtain ⟨cells, flag⟩ := ih (j + 1) (by omega) (flipCell acc r (wrapCol (px + j)))
      simp only [hb, ite_true, true_and]
      refine ⟨fun r' c' => ?_, ?_⟩
      · obtain ⟨hit, miss⟩ := cells r' c'
        rw [flipCell_cell] at hit miss
        by_cases hr : r' = r
        · subst hr
          by_cases hc : c' = wrapCol (px + j)
          · subst hc
            simpa [hne] using miss
          · simp only [hc, and_false, ite_false, true_and] at hit miss
            simpa [Ne.symm hc] using ⟨hit, miss⟩
        · simpa [hr] using miss
      · rw [flag, flipCell_flag]
        simp only [Bool.or_eq_true, or_assoc]
        refine or_congr_right ?_
        constructor
        · rintro (h | ⟨c, hc, hv⟩)
          · exact ⟨_, .inl rfl, h⟩
          · refine ⟨c, .inr hc, ?_⟩
            rw [flipCell_cell] at hv
            rwa [if_neg] at hv
            rintro ⟨-, rfl⟩
            exact hne hc
        · rintro ⟨c, rfl | hc, hv⟩
          · exact .inl hv
          · refine .inr ⟨c, hc, ?_⟩
            rw [flipCell_cell, if_neg]
            · exact hv
            · rintro ⟨-, rfl⟩
              exact hne hc
    · simpa [hb] using ih (j + 1) (by omega) acc

/-- A set bit of the sprite rows `rows`, the first of them row number `i`, stands on the cell. -/
def rowHit (px py i : Nat) (rows : List Byte) (r : Fin fbRows) (c : Fin fbCols) : Prop :=
  ∃ n, ∃ h : n < rows.length, wrapRow (py + (i + n)) = r ∧ columnHit rows[n] px 0 8 c

theorem rowHit_nil (px py i : Nat) (r : Fin fbRows) (c : Fin fbCols) : ¬ rowHit px py i [] r c := by
  rintro ⟨n, h, -⟩
  simp at h

theorem rowHit_cons (px py i : Nat) (row : Byte) (rows : List Byte) (r : Fin fbRows) (c : Fin fbCols) :
    rowHit px py i (row :: rows) r c ↔
      (wrapRow (py + i) = r ∧ columnHit row px 0 8 c) ∨ rowHit px py (i + 1) rows r c := by
  constructor
  · rintro ⟨n, h, hr, hc⟩
    cases n with
    | zero => exact .inl ⟨hr, hc⟩
    | succ n => exact .inr ⟨n, by simpa using h, by rw [← hr]; congr 1; omega, hc⟩
  · rintro (⟨hr, hc⟩ | ⟨n, h, hr, hc⟩)
    · exact ⟨0, by simp, hr, hc⟩
    · exact ⟨n + 1, by simpa using h, by rw [← hr]; congr 1; omega, hc⟩

theorem rowHit_ne (px py i : Nat) (rows : List Byte) (h : rows.length < 32) (c : Fin fbCols) :
    ¬ rowHit px py (i + 1) rows (wrapRow (py + i)) c := by
  rintro ⟨n, hn, hr, -⟩
  have := Fin.ext_iff.mp hr
  simp only [wrapRow] at this
  omega

/-- Drawing a sprite of at most 32 rows flips the cells under its set bits, each once, and reports whether one of them
was 1. -/
theorem drawRows_spec (px py i : Nat) (rows : List Byte) (h : rows.length ≤ 32) (acc : Framebuffer × Bool) :
    (∀ r c, (rowHit px py i rows r c → fbCell (drawRows px py i rows acc).1 r c = !fbCell acc.1 r c) ∧
      (¬ rowHit px py i rows r c → fbCell (drawRows px py i rows acc).1 r c = fbCell acc.1 r c)) ∧
    ((drawRows px py i rows acc).2 = true ↔
      acc.2 = true ∨ ∃ r c, rowHit px py i rows r c ∧ fbCell acc.1 r c = true) := by
  induction rows generalizing i acc with
  | nil => simp [drawRows, rowHit_nil]
  | cons row rows ih =>
    simp only [List.length_cons] at h
    simp only [drawRows, rowHit_cons]
    have hne := rowHit_ne px py i rows (by omega)
    obtain ⟨cells, flag⟩ := ih (i + 1) (by omega) (drawColumns row (wrapRow (py + i)) px 0 8 acc)
    obtain ⟨cells', flag'⟩ := drawColumns_spec row (wrapRow (py + i)) px 0 8 (by omega) acc
    refine ⟨fun r c => ?_, ?_⟩
    · obtain ⟨hit, miss⟩ := cells r c
      obtain ⟨hit', miss'⟩ := cells' r c
      by_cases hr : r = wrapRow (py + i)
      · subst hr
        simp only [hne, not_false_eq_true, forall_const, true_and, or_false] at hit' miss' miss ⊢
        exact ⟨fun hc => miss.trans (hit' hc), fun hc => miss.trans (miss' hc)⟩
      · simp only [hr, Ne.symm hr, false_and, false_or, not_false_eq_true, forall_const] at miss' ⊢
        exact ⟨fun hc => (hit hc).trans (by rw [miss']), fun hc => (miss hc).trans miss'⟩
    · rw [flag, flag', or_assoc]
      refine or_congr_right ?_
      constructor
      · rintro (⟨c, hc, hv⟩ | ⟨r, c, hc, hv⟩)
        · exact ⟨_, c, .inl ⟨rfl, hc⟩, hv⟩
        · refine ⟨r, c, .inr hc, ?_⟩
          rwa [(cells' r c).2] at hv
          rintro ⟨rfl, -⟩
          exact hne c hc
      · rintro ⟨r, c, ⟨rfl, hc⟩ | hc, hv⟩
        · exact .inl ⟨c, hc, hv⟩
        · refine .inr ⟨r, c, hc, ?_⟩
          rw [(cells' r c).2]
          · exact hv
          · rintro ⟨rfl, -⟩
            exact hne c hc

/-- The whole draw operation. -/
theorem drawSprite_spec (rows : List Byte) (px py : Nat) (fb : Framebuffer) (h : rows.length ≤ 32) :
    (∀ r c, (rowHit px py 0 rows r c → fbCell (drawSprite rows px py fb).1 r c = !fbCell fb r c) ∧
      (¬ rowHit px py 0 rows r c → fbCell (drawSprite rows px py fb).1 r c = fbCell fb r c)) ∧
    ((drawSprite rows px py fb).2 = true ↔ ∃ r c, rowHit px py 0 rows r c ∧ fbCell fb r c = true) := by
  simpa [drawSprite] using drawRows_spec px py 0 rows h (fb, false)

end Sys2Proof.Machine
end

