-- ==== Sys2Proof/Laws/Memory.lean ====
section
/-! SUPPORT. The laws of memory: reads after writes, and the canonical form. -/

namespace Sys2Proof.Machine

/-! ### The content after Reset -/

/-- The low 80 addresses hold the parameter `GLYPH_ROM` after Reset, whatever it is. -/
@[simp] theorem memReset_glyph (a : Fin glyphSize) : memReset a.val = Config.glyphRom a := dif_pos a.isLt

/-- Every other address holds 0 after Reset. -/
theorem memReset_of_le {a : Nat} (h : glyphSize ≤ a) : memReset a = 0 := dif_neg (by omega)

/-! ### Reading after writing -/

theorem Memory.read_of_not_mem {m : Memory} {a : Nat} (h : ∀ c ∈ m, c.1 ≠ a) : Memory.read m a = memReset a := by
  induction m with
  | nil => rfl
  | cons c rest ih =>
    simp only [Memory.read]
    rw [if_neg (h c (by simp)), ih fun d hd => h d (by simp [hd])]

theorem Memory.read_filter_ne (m : Memory) {a b : Nat} (h : b ≠ a) :
    Memory.read (m.filter fun c => c.1 != a) b = Memory.read m b := by
  induction m with
  | nil => rfl
  | cons c rest ih =>
    by_cases hc : c.1 = a
    · rw [List.filter_cons_of_neg (by simp [hc]), ih]
      simp [Memory.read, hc, Ne.symm h]
    · rw [List.filter_cons_of_pos (by simp [hc])]
      simp only [Memory.read, ih]

theorem Memory.read_insert (m : Memory) (a b : Nat) (v : Byte) (h : ∀ c ∈ m, c.1 ≠ a) :
    Memory.read (Memory.insert a v m) b = if b = a then v else Memory.read m b := by
  induction m with
  | nil => simp only [Memory.insert, Memory.read, eq_comm]
  | cons c rest ih =>
    have hne : c.1 ≠ a := h c (by simp)
    have ih := ih fun d hd => h d (by simp [hd])
    by_cases hb : b = a
    · subst hb
      by_cases hlt : b < c.1
      · simp [Memory.insert, Memory.read, hlt]
      · simp [Memory.insert, Memory.read, hlt, hne, ih]
    · by_cases hlt : a < c.1
      · simp [Memory.insert, Memory.read, hlt, Ne.symm hb, hb]
      · simp [Memory.insert, Memory.read, hlt, ih, hb]

/-- One write changes one byte, whatever the memory's form. -/
@[simp] theorem Memory.read_write (m : Memory) (a b : Nat) (v : Byte) :
    Memory.read (Memory.write m a v) b = if b = a then v else Memory.read m b := by
  have gone : ∀ c ∈ m.filter (fun c => c.1 != a), c.1 ≠ a := fun c hc => by simpa using (List.mem_filter.mp hc).2
  unfold Memory.write
  split
  · split
    · subst_vars; exact Memory.read_of_not_mem gone
    · exact Memory.read_filter_ne m ‹_›
  · rw [Memory.read_insert _ _ _ _ gone]
    split
    · rfl
    · exact Memory.read_filter_ne m ‹_›

/-- A list of bytes lands at ascending addresses and nowhere else. -/
theorem Memory.read_writeList (m : Memory) (a b : Nat) (bs : List Byte) :
    Memory.read (Memory.writeList m a bs) b =
      if h : a ≤ b ∧ b < a + bs.length then bs[b - a]'(by omega) else Memory.read m b := by
  induction bs generalizing m a with
  | nil => rw [dif_neg (by simp only [List.length_nil]; omega)]; rfl
  | cons v rest ih =>
    simp only [Memory.writeList, ih, Memory.read_write, List.length_cons]
    by_cases hb : b = a
    · subst hb
      simp
    · by_cases hin : a + 1 ≤ b ∧ b < a + 1 + rest.length
      · rw [dif_pos hin, dif_pos (by omega)]
        have : b - a = b - (a + 1) + 1 := by omega
        simp [this]
      · rw [dif_neg hin, dif_neg (by omega), if_neg hb]

@[simp] theorem Memory.readList_length (m : Memory) (a n : Nat) : (Memory.readList m a n).length = n := by
  induction n generalizing a with
  | zero => rfl
  | succ n ih => simp [Memory.readList, ih]

@[simp] theorem Memory.readList_getElem (m : Memory) (a n i : Nat) (h : i < (Memory.readList m a n).length) :
    (Memory.readList m a n)[i] = Memory.read m (a + i) := by
  induction n generalizing a i with
  | zero => simp [Memory.readList] at h
  | succ n ih =>
    cases i with
    | zero => rfl
    | succ i => simp only [Memory.readList, List.getElem_cons_succ, ih]; congr 1; omega

/-! ### The canonical form -/

theorem Memory.mem_insert {m : Memory} {a : Nat} {v : Byte} {c : Host.Cell} :
    c ∈ Memory.insert a v m ↔ c = (a, v) ∨ c ∈ m := by
  induction m with
  | nil => simp [Memory.insert]
  | cons d rest ih =>
    simp only [Memory.insert]
    split <;> simp [ih, or_left_comm]

theorem Memory.insert_pairwise {m : Memory} {a : Nat} {v : Byte} (hp : m.Pairwise fun c d => c.1 < d.1)
    (hne : ∀ c ∈ m, c.1 ≠ a) : (Memory.insert a v m).Pairwise fun c d => c.1 < d.1 := by
  induction m with
  | nil => simp [Memory.insert]
  | cons d rest ih =>
    obtain ⟨hd, hrest⟩ := List.pairwise_cons.mp hp
    have hda : d.1 ≠ a := hne d (by simp)
    simp only [Memory.insert]
    split
    · rename_i hlt
      refine List.pairwise_cons.mpr ⟨fun c hc => ?_, hp⟩
      rcases List.mem_cons.mp hc with rfl | hc
      · exact hlt
      · exact lt_trans hlt (hd c hc)
    · refine List.pairwise_cons.mpr ⟨fun c hc => ?_, ih hrest fun c hc => hne c (by simp [hc])⟩
      rcases Memory.mem_insert.mp hc with rfl | hc
      · show d.1 < a
        omega
      · exact hd c hc

/-- A write keeps the canonical form. -/
theorem Memory.write_wf {m : Memory} (hm : Memory.wf m) {a : Nat} (ha : a < memSize) (v : Byte) :
    Memory.wf (Memory.write m a v) := by
  have hp : (m.filter fun c => c.1 != a).Pairwise fun c d => c.1 < d.1 := hm.1.filter _
  have hc : ∀ c ∈ m.filter (fun c => c.1 != a), c.1 < memSize ∧ c.2 ≠ memReset c.1 :=
    fun c h => hm.2 c (List.mem_filter.mp h).1
  have gone : ∀ c ∈ m.filter (fun c => c.1 != a), c.1 ≠ a := fun c hc => by simpa using (List.mem_filter.mp hc).2
  unfold Memory.write
  split
  · exact ⟨hp, hc⟩
  · rename_i hv
    refine ⟨Memory.insert_pairwise hp gone, fun c h => ?_⟩
    rcases Memory.mem_insert.mp h with rfl | h
    · exact ⟨ha, hv⟩
    · exact hc c h

/-- Writing a list of bytes keeps the canonical form. -/
theorem Memory.writeList_wf {m : Memory} (hm : Memory.wf m) {a : Nat} {bs : List Byte}
    (h : a + bs.length ≤ memSize) : Memory.wf (Memory.writeList m a bs) := by
  induction bs generalizing m a with
  | nil => exact hm
  | cons v rest ih =>
    simp only [List.length_cons] at h
    exact ih (Memory.write_wf hm (by omega) v) (by omega)

/-- Canonical memories that read alike are equal data. -/
theorem Memory.ext_of_wf {m m' : Memory} (hm : Memory.wf m) (hm' : Memory.wf m')
    (h : ∀ a, Memory.read m a = Memory.read m' a) : m = m' := by
  have above : ∀ {c : Host.Cell} {rest : Memory} {a : Nat}, Memory.wf (c :: rest) → a < c.1 →
      Memory.read (c :: rest) a = memReset a := by
    intro c rest a hw ha
    refine Memory.read_of_not_mem fun d hd => ?_
    rcases List.mem_cons.mp hd with rfl | hd
    · omega
    · have := (List.pairwise_cons.mp hw.1).1 d hd
      omega
  have head : ∀ (c : Host.Cell) (rest : Memory), Memory.read (c :: rest) c.1 = c.2 := fun c rest => by
    simp [Memory.read]
  have tail : ∀ {c : Host.Cell} {rest : Memory}, Memory.wf (c :: rest) → Memory.wf rest := fun hw =>
    ⟨(List.pairwise_cons.mp hw.1).2, fun d hd => hw.2 d (List.mem_cons_of_mem _ hd)⟩
  have own : ∀ {c : Host.Cell} {rest : Memory}, Memory.wf (c :: rest) → c.2 ≠ memReset c.1 := fun hw =>
    (hw.2 _ (by simp)).2
  have rests : ∀ {c : Host.Cell} {rest : Memory} {a : Nat}, Memory.wf (c :: rest) →
      Memory.read rest a = if a = c.1 then memReset a else Memory.read (c :: rest) a := by
    intro c rest a hw
    split
    · subst_vars
      exact Memory.read_of_not_mem fun d hd => by
        have := (List.pairwise_cons.mp hw.1).1 d hd
        omega
    · rename_i hne
      simp [Memory.read, Ne.symm hne]
  induction m generalizing m' with
  | nil =>
    cases m' with
    | nil => rfl
    | cons d rest' => exact absurd ((head d rest').symm.trans (h d.1).symm) (own hm')
  | cons c rest ih =>
    cases m' with
    | nil => exact absurd ((head c rest).symm.trans (h c.1)) (own hm)
    | cons d rest' =>
      rcases lt_trichotomy c.1 d.1 with hlt | heq | hlt
      · exact absurd ((head c rest).symm.trans ((h c.1).trans (above hm' hlt))) (own hm)
      · have hv : c.2 = d.2 := by rw [← head c rest, h, heq, head]
        have hcd : c = d := Prod.ext heq hv
        rw [ih (tail hm) (tail hm') fun a => by rw [rests hm, rests hm', heq, h], hcd]
      · exact absurd ((head d rest').symm.trans ((h d.1).symm.trans (above hm hlt))) (own hm')

/-- Reset memory is canonical. -/
theorem Memory.reset_wf : Memory.wf State.reset.mem := by decide

end Sys2Proof.Machine
end

