-- ==== Sys2Proof/Laws/Ops.lean ====
section
/-! SUPPORT. One lemma per shared operation: everything it can do. -/

namespace Sys2Proof.Machine

/-! ### The bounds check -/

theorem guardRange_of_inside {base : Word} {len : Nat} (k : Result) (h : len = 0 ∨ base.toNat + len ≤ memSize) :
    guardRange base len k = k :=
  if_neg (by omega)

theorem guardRange_of_outside {base : Word} {len : Nat} (k : Result) (h0 : 0 < len)
    (h : memSize < base.toNat + len) : guardRange base len k = .fault (.memoryOutOfRange (max base.toNat memSize)) :=
  if_pos ⟨h0, h⟩

/-- A checked access that answers a next state was inside memory, and did what follows the check. -/
theorem guardRange_eq_next {base : Word} {len : Nat} {k : Result} {t : State} (h : guardRange base len k = .next t) :
    (len = 0 ∨ base.toNat + len ≤ memSize) ∧ k = .next t := by
  unfold guardRange at h
  split at h
  · cases h
  · exact ⟨by omega, h⟩

/-! ### The call stack -/

theorem push_of_room (s : State) (v : Word) (k : State → Result) (h : s.sp.val < stackDepth) :
    s.push v k = k (s.setStack ⟨s.sp.val + 1, by simp only [stackDepth] at h; omega⟩ (s.stack.set s.sp.val v)) :=
  dif_pos h

theorem push_of_full (s : State) (v : Word) (k : State → Result) (h : ¬ s.sp.val < stackDepth) :
    s.push v k = .fault .stackOverflow :=
  dif_neg h

theorem pop_of_entry (s : State) (k : Word → State → Result) (h : 0 < s.sp.val) :
    s.pop k = k (s.stack[s.sp.val - 1]'(by omega)) (s.setStack ⟨s.sp.val - 1, by omega⟩ s.stack) :=
  dif_pos h

theorem pop_of_empty (s : State) (k : Word → State → Result) (h : ¬ 0 < s.sp.val) :
    s.pop k = .fault .stackUnderflow :=
  dif_neg h

/-- A push that answers a next state found room. -/
theorem push_eq_next {s t : State} {v : Word} {k : State → Result} (h : s.push v k = .next t) :
    ∃ room : s.sp.val < stackDepth,
      k (s.setStack ⟨s.sp.val + 1, by simp only [stackDepth] at room; omega⟩ (s.stack.set s.sp.val v)) = .next t := by
  by_cases room : s.sp.val < stackDepth
  · exact ⟨room, by rw [← push_of_room s v k room]; exact h⟩
  · rw [push_of_full s v k room] at h
    cases h

/-- A pop that answers a next state found an entry. -/
theorem pop_eq_next {s t : State} {k : Word → State → Result} (h : s.pop k = .next t) :
    ∃ _ : 0 < s.sp.val,
      k (s.stack[s.sp.val - 1]'(by omega)) (s.setStack ⟨s.sp.val - 1, by omega⟩ s.stack) = .next t := by
  by_cases entry : 0 < s.sp.val
  · exact ⟨entry, by rw [← pop_of_entry s k entry]; exact h⟩
  · rw [pop_of_empty s k entry] at h
    cases h

/-! ### The key index -/

theorem withKey_of_index (x : RegIdx) (s : State) (k : KeyIdx → Result) (h : (s.reg x).toNat < 16) :
    withKey x s k = k ⟨(s.reg x).toNat, h⟩ :=
  dif_pos h

theorem withKey_of_large (x : RegIdx) (s : State) (k : KeyIdx → Result) (h : ¬ (s.reg x).toNat < 16) :
    withKey x s k = .fault (.keypadIndexOutOfRange (s.reg x)) :=
  dif_neg h

/-- A key query that answers a next state had an index below 16. -/
theorem withKey_eq_next {x : RegIdx} {s t : State} {k : KeyIdx → Result} (h : withKey x s k = .next t) :
    ∃ small : (s.reg x).toNat < 16, k ⟨(s.reg x).toNat, small⟩ = .next t := by
  by_cases small : (s.reg x).toNat < 16
  · exact ⟨small, by rw [← withKey_of_index x s k small]; exact h⟩
  · rw [withKey_of_large x s k small] at h
    cases h

/-! ### Fetch -/

theorem fetch_of_inside (s : State) (h : s.pc.toNat ≤ 4094) : fetch s = .ok (s.word s.pc.toNat) :=
  if_pos (by simp only [memSize]; omega)

theorem fetch_of_outside (s : State) (h : 4095 ≤ s.pc.toNat) : fetch s = .error (.fetchOutOfRange s.pc) :=
  if_neg (by simp only [memSize]; omega)

/-! ### Stores and loads -/

/-- What the state's bytes are after a store of a list of bytes. -/
theorem setMem_writeList_byte (s : State) (a b : Nat) (bs : List Byte) :
    (s.setMem (Memory.writeList s.mem a bs)).byte b =
      if h : a ≤ b ∧ b < a + bs.length then bs[b - a]'(by omega) else s.byte b := by
  rw [State.setMem_byte, Memory.read_writeList]
  rfl

/-- A store at `I` that answers a next state wrote the bytes and nothing else. -/
theorem storeAtIndex_eq_next {bs : List Byte} {s t : State} (h : storeAtIndex bs s = .next t) :
    (bs.length = 0 ∨ s.idx.toNat + bs.length ≤ memSize) ∧
      t = s.setMem (Memory.writeList s.mem s.idx.toNat bs) := by
  obtain ⟨inside, h⟩ := guardRange_eq_next h
  exact ⟨inside, (Host.Outcome.next.inj h).symm⟩

@[simp] theorem bcdDigits_length (v : Byte) : (bcdDigits v).length = 3 := rfl

@[simp] theorem regList_length (x : RegIdx) (s : State) : (regList x s).length = x.val + 1 := by
  simp only [regList, List.length_take, Vector.length_toList]
  omega

@[simp] theorem regList_getElem (x : RegIdx) (s : State) (j : Nat) (h : j < (regList x s).length) :
    (regList x s)[j] = s.reg ⟨j, by rw [regList_length] at h; omega⟩ := by
  simp [regList, State.reg]

@[simp] theorem loadedRegs_getElem (x : RegIdx) (base : Nat) (s : State) (r : RegIdx) :
    (loadedRegs x base s)[r] = if r ≤ x then s.byte (base + r.val) else s.reg r := by
  simp [loadedRegs]

/-! ### The skip and the host's operations -/

/-- A skip is the advanced state or the state itself. -/
theorem skipIf_eq (s : State) (b : Bool) : s.skipIf b = s.advance ∨ s.skipIf b = s := by
  cases b
  · exact Or.inr rfl
  · exact Or.inl rfl

theorem keyEvent_released (k : KeyIdx) (s : State) : keyEvent k .released s = s.setKey k false := rfl

theorem keyEvent_pressed_waiting {s : State} {r : RegIdx} (k : KeyIdx) (h : s.latch = .waiting r) :
    keyEvent k .pressed s = resolveWait r k s := by
  simp only [keyEvent, h]

theorem keyEvent_pressed_free {s : State} (k : KeyIdx) (h : s.latch = .notWaiting) :
    keyEvent k .pressed s = s.setKey k true := by
  simp only [keyEvent, h]

theorem loadProgram_eq_ok {b : List Byte} {s t : State} (h : loadProgram b s = .ok t) :
    b.length ≤ maxProgram ∧ t = s.setMem (Memory.writeList s.mem loadBase b) := by
  unfold loadProgram at h
  split at h
  · cases h
  · exact ⟨by omega, (Except.ok.inj h).symm⟩

end Sys2Proof.Machine
end

