-- ==== Sys2Proof/Laws/Exec.lean ====
section
/-! SUPPORT. What each instruction that can raise an error does when it completes; every other instruction is its one next
state by definition. -/

namespace Sys2Proof.Machine

/-- A flag value is 0 or 1. -/
theorem flagByte_zero_or_one (b : Bool) : flagByte b = 0 ∨ flagByte b = 1 := by cases b <;> decide

@[simp] theorem flagByte_eq_one (b : Bool) : flagByte b = 1#8 ↔ b = true := by cases b <;> decide

@[simp] theorem flagByte_eq_zero (b : Bool) : flagByte b = 0#8 ↔ b = false := by cases b <;> decide

theorem flagByte_toNat (b : Bool) : (flagByte b).toNat = if b then 1 else 0 := by cases b <;> rfl

/-! ### The guarded instructions as the operations they are -/

theorem exec_ret (s : State) : exec .ret s = s.pop fun target t => .next (t.setPc target) := rfl

theorem exec_call (nnn : Addr12) (s : State) :
    exec (.call nnn) s = s.push s.pc fun t => .next (t.setPc (nnn.setWidth 16)) := rfl

theorem exec_skp (x : RegIdx) (s : State) : exec (.skp x) s = withKey x s fun k => .next (s.skipIf (s.key k)) := rfl

theorem exec_sknp (x : RegIdx) (s : State) : exec (.sknp x) s = withKey x s fun k => .next (s.skipIf (!s.key k)) := rfl

theorem exec_drw (x y : RegIdx) (n : Nibble) (s : State) :
    exec (.drw x y n) s =
      guardRange s.idx n.toNat (.next (drawAt x y (Memory.readList s.mem s.idx.toNat n.toNat) s)) := rfl

theorem exec_ldB (x : RegIdx) (s : State) : exec (.ldB x) s = storeAtIndex (bcdDigits (s.reg x)) s := rfl

theorem exec_storeRegs (x : RegIdx) (s : State) : exec (.storeRegs x) s = storeAtIndex (regList x s) s := rfl

theorem exec_loadRegs (x : RegIdx) (s : State) :
    exec (.loadRegs x) s = guardRange s.idx (x.val + 1) (.next (s.setRegs (loadedRegs x s.idx.toNat s))) := rfl

/-! ### What they did when they completed -/

theorem exec_ret_next {s t : State} (h : exec .ret s = .next t) :
    ∃ _ : 0 < s.sp.val,
      t = (s.setStack ⟨s.sp.val - 1, by omega⟩ s.stack).setPc (s.stack[s.sp.val - 1]'(by omega)) := by
  obtain ⟨entry, h⟩ := pop_eq_next (k := fun target u => .next (u.setPc target)) h
  exact ⟨entry, (Host.Outcome.next.inj h).symm⟩

theorem exec_call_next {nnn : Addr12} {s t : State} (h : exec (.call nnn) s = .next t) :
    ∃ room : s.sp.val < stackDepth,
      t = (s.setStack ⟨s.sp.val + 1, by simp only [stackDepth] at room; omega⟩
        (s.stack.set s.sp.val s.pc)).setPc (nnn.setWidth 16) := by
  obtain ⟨room, h⟩ := push_eq_next (k := fun u => .next (u.setPc (nnn.setWidth 16))) h
  exact ⟨room, (Host.Outcome.next.inj h).symm⟩

theorem exec_skp_next {x : RegIdx} {s t : State} (h : exec (.skp x) s = .next t) :
    ∃ small : (s.reg x).toNat < 16, t = s.skipIf (s.key ⟨(s.reg x).toNat, small⟩) := by
  obtain ⟨small, h⟩ := withKey_eq_next (k := fun k => .next (s.skipIf (s.key k))) h
  exact ⟨small, (Host.Outcome.next.inj h).symm⟩

theorem exec_sknp_next {x : RegIdx} {s t : State} (h : exec (.sknp x) s = .next t) :
    ∃ small : (s.reg x).toNat < 16, t = s.skipIf (!s.key ⟨(s.reg x).toNat, small⟩) := by
  obtain ⟨small, h⟩ := withKey_eq_next (k := fun k => .next (s.skipIf (!s.key k))) h
  exact ⟨small, (Host.Outcome.next.inj h).symm⟩

theorem exec_drw_next {x y : RegIdx} {n : Nibble} {s t : State} (h : exec (.drw x y n) s = .next t) :
    (n.toNat = 0 ∨ s.idx.toNat + n.toNat ≤ memSize) ∧
      t = drawAt x y (Memory.readList s.mem s.idx.toNat n.toNat) s := by
  obtain ⟨inside, h⟩ := guardRange_eq_next (show guardRange s.idx n.toNat _ = .next t from h)
  exact ⟨inside, (Host.Outcome.next.inj h).symm⟩

theorem exec_ldB_next {x : RegIdx} {s t : State} (h : exec (.ldB x) s = .next t) :
    s.idx.toNat + 3 ≤ memSize ∧ t = s.setMem (Memory.writeList s.mem s.idx.toNat (bcdDigits (s.reg x))) := by
  obtain ⟨inside, h⟩ := storeAtIndex_eq_next (show storeAtIndex _ s = .next t from h)
  rw [bcdDigits_length] at inside
  exact ⟨by omega, h⟩

theorem exec_storeRegs_next {x : RegIdx} {s t : State} (h : exec (.storeRegs x) s = .next t) :
    s.idx.toNat + (x.val + 1) ≤ memSize ∧ t = s.setMem (Memory.writeList s.mem s.idx.toNat (regList x s)) := by
  obtain ⟨inside, h⟩ := storeAtIndex_eq_next (show storeAtIndex _ s = .next t from h)
  rw [regList_length] at inside
  exact ⟨by omega, h⟩

theorem exec_loadRegs_next {x : RegIdx} {s t : State} (h : exec (.loadRegs x) s = .next t) :
    s.idx.toNat + (x.val + 1) ≤ memSize ∧ t = s.setRegs (loadedRegs x s.idx.toNat s) := by
  obtain ⟨inside, h⟩ := guardRange_eq_next (show guardRange s.idx (x.val + 1) _ = .next t from h)
  exact ⟨by omega, (Host.Outcome.next.inj h).symm⟩

end Sys2Proof.Machine
end

