-- ==== Sys2Proof/Laws/PerInstr.lean ====
section
/-! SUPPORT. Statements made per instruction: the operands of every instruction fit their fields. -/

namespace Sys2Proof

theorem fitsReg_val (r : RegIdx) : fitsReg r.val = true := by simp [fitsReg]

theorem fitsNibble_toNat (n : Nibble) : fitsNibble n.toNat = true := by simpa [fitsNibble] using n.isLt

theorem fitsByte_toNat (nn : Byte) : fitsByte nn.toNat = true := by simpa [fitsByte] using nn.isLt

theorem fitsAddr_toNat (nnn : Addr12) : fitsAddr nnn.toNat = true := by simpa [fitsAddr] using nnn.isLt

/-- Every operand fits its field (30_encoding.md R71, R74). -/
def Laws.OperandsFit.Statement (i : Instr) : Prop := i.wellFormed = true

theorem Laws.OperandsFit.cls : Laws.OperandsFit.Statement .cls := rfl

theorem Laws.OperandsFit.ret : Laws.OperandsFit.Statement .ret := rfl

theorem Laws.OperandsFit.jp (nnn : Addr12) : Laws.OperandsFit.Statement (.jp nnn) := fitsAddr_toNat nnn

theorem Laws.OperandsFit.call (nnn : Addr12) : Laws.OperandsFit.Statement (.call nnn) := fitsAddr_toNat nnn

theorem Laws.OperandsFit.seImm (x : RegIdx) (nn : Byte) : Laws.OperandsFit.Statement (.seImm x nn) := by
  simp only [Laws.OperandsFit.Statement, Instr.wellFormed, fitsReg_val x, fitsByte_toNat nn, Bool.and_self]

theorem Laws.OperandsFit.sneImm (x : RegIdx) (nn : Byte) : Laws.OperandsFit.Statement (.sneImm x nn) := by
  simp only [Laws.OperandsFit.Statement, Instr.wellFormed, fitsReg_val x, fitsByte_toNat nn, Bool.and_self]

theorem Laws.OperandsFit.seReg (x y : RegIdx) : Laws.OperandsFit.Statement (.seReg x y) := by
  simp only [Laws.OperandsFit.Statement, Instr.wellFormed, fitsReg_val x, fitsReg_val y, Bool.and_self]

theorem Laws.OperandsFit.ldImm (x : RegIdx) (nn : Byte) : Laws.OperandsFit.Statement (.ldImm x nn) := by
  simp only [Laws.OperandsFit.Statement, Instr.wellFormed, fitsReg_val x, fitsByte_toNat nn, Bool.and_self]

theorem Laws.OperandsFit.addImm (x : RegIdx) (nn : Byte) : Laws.OperandsFit.Statement (.addImm x nn) := by
  simp only [Laws.OperandsFit.Statement, Instr.wellFormed, fitsReg_val x, fitsByte_toNat nn, Bool.and_self]

theorem Laws.OperandsFit.ldReg (x y : RegIdx) : Laws.OperandsFit.Statement (.ldReg x y) := by
  simp only [Laws.OperandsFit.Statement, Instr.wellFormed, fitsReg_val x, fitsReg_val y, Bool.and_self]

theorem Laws.OperandsFit.orReg (x y : RegIdx) : Laws.OperandsFit.Statement (.orReg x y) := by
  simp only [Laws.OperandsFit.Statement, Instr.wellFormed, fitsReg_val x, fitsReg_val y, Bool.and_self]

theorem Laws.OperandsFit.andReg (x y : RegIdx) : Laws.OperandsFit.Statement (.andReg x y) := by
  simp only [Laws.OperandsFit.Statement, Instr.wellFormed, fitsReg_val x, fitsReg_val y, Bool.and_self]

theorem Laws.OperandsFit.xorReg (x y : RegIdx) : Laws.OperandsFit.Statement (.xorReg x y) := by
  simp only [Laws.OperandsFit.Statement, Instr.wellFormed, fitsReg_val x, fitsReg_val y, Bool.and_self]

theorem Laws.OperandsFit.addReg (x y : RegIdx) : Laws.OperandsFit.Statement (.addReg x y) := by
  simp only [Laws.OperandsFit.Statement, Instr.wellFormed, fitsReg_val x, fitsReg_val y, Bool.and_self]

theorem Laws.OperandsFit.subReg (x y : RegIdx) : Laws.OperandsFit.Statement (.subReg x y) := by
  simp only [Laws.OperandsFit.Statement, Instr.wellFormed, fitsReg_val x, fitsReg_val y, Bool.and_self]

theorem Laws.OperandsFit.shr (x y : RegIdx) : Laws.OperandsFit.Statement (.shr x y) := by
  simp only [Laws.OperandsFit.Statement, Instr.wellFormed, fitsReg_val x, fitsReg_val y, Bool.and_self]

theorem Laws.OperandsFit.subnReg (x y : RegIdx) : Laws.OperandsFit.Statement (.subnReg x y) := by
  simp only [Laws.OperandsFit.Statement, Instr.wellFormed, fitsReg_val x, fitsReg_val y, Bool.and_self]

theorem Laws.OperandsFit.shl (x y : RegIdx) : Laws.OperandsFit.Statement (.shl x y) := by
  simp only [Laws.OperandsFit.Statement, Instr.wellFormed, fitsReg_val x, fitsReg_val y, Bool.and_self]

theorem Laws.OperandsFit.sneReg (x y : RegIdx) : Laws.OperandsFit.Statement (.sneReg x y) := by
  simp only [Laws.OperandsFit.Statement, Instr.wellFormed, fitsReg_val x, fitsReg_val y, Bool.and_self]

theorem Laws.OperandsFit.ldI (nnn : Addr12) : Laws.OperandsFit.Statement (.ldI nnn) := fitsAddr_toNat nnn

theorem Laws.OperandsFit.jpV0 (nnn : Addr12) : Laws.OperandsFit.Statement (.jpV0 nnn) := fitsAddr_toNat nnn

theorem Laws.OperandsFit.rnd (x : RegIdx) (nn : Byte) : Laws.OperandsFit.Statement (.rnd x nn) := by
  simp only [Laws.OperandsFit.Statement, Instr.wellFormed, fitsReg_val x, fitsByte_toNat nn, Bool.and_self]

theorem Laws.OperandsFit.drw (x y : RegIdx) (n : Nibble) : Laws.OperandsFit.Statement (.drw x y n) := by
  simp only [Laws.OperandsFit.Statement, Instr.wellFormed, fitsReg_val x, fitsReg_val y, fitsNibble_toNat n, Bool.and_self]

theorem Laws.OperandsFit.skp (x : RegIdx) : Laws.OperandsFit.Statement (.skp x) := fitsReg_val x

theorem Laws.OperandsFit.sknp (x : RegIdx) : Laws.OperandsFit.Statement (.sknp x) := fitsReg_val x

theorem Laws.OperandsFit.ldVxDt (x : RegIdx) : Laws.OperandsFit.Statement (.ldVxDt x) := fitsReg_val x

theorem Laws.OperandsFit.ldVxK (x : RegIdx) : Laws.OperandsFit.Statement (.ldVxK x) := fitsReg_val x

theorem Laws.OperandsFit.ldDtVx (x : RegIdx) : Laws.OperandsFit.Statement (.ldDtVx x) := fitsReg_val x

theorem Laws.OperandsFit.ldStVx (x : RegIdx) : Laws.OperandsFit.Statement (.ldStVx x) := fitsReg_val x

theorem Laws.OperandsFit.addI (x : RegIdx) : Laws.OperandsFit.Statement (.addI x) := fitsReg_val x

theorem Laws.OperandsFit.ldF (x : RegIdx) : Laws.OperandsFit.Statement (.ldF x) := fitsReg_val x

theorem Laws.OperandsFit.ldB (x : RegIdx) : Laws.OperandsFit.Statement (.ldB x) := fitsReg_val x

theorem Laws.OperandsFit.storeRegs (x : RegIdx) : Laws.OperandsFit.Statement (.storeRegs x) := fitsReg_val x

theorem Laws.OperandsFit.loadRegs (x : RegIdx) : Laws.OperandsFit.Statement (.loadRegs x) := fitsReg_val x

/-- Every instruction is well formed: the operand types carry the bounds. -/
theorem Instr.wellFormed_all (i : Instr) : i.wellFormed = true := by
  cases i <;>
    simp only [Instr.wellFormed, fitsReg_val, fitsNibble_toNat, fitsByte_toNat, fitsAddr_toNat, Bool.and_self]

end Sys2Proof
end

