-- ==== Sys2Proof/Laws/Step.lean ====
section
/-! SUPPORT. What a Step can do, said once. -/

namespace Sys2Proof.Machine

/-- A step that answers a next state was blocked, met an unknown word, or ran the fetched instruction. -/
theorem step_eq_next {s t : State} (h : step s = .next t) :
    (s.latch ≠ .notWaiting ∧ t = s) ∨
    (s.latch = .notWaiting ∧ s.pc.toNat ≤ 4094 ∧ decodeWord (s.word s.pc.toNat) = none ∧ t = s.advance) ∨
    ∃ i, Fetches s i ∧ exec i s.advance = .next t := by
  unfold step stepOp at h
  cases hl : s.latch with
  | waiting r =>
    simp only [hl, stepOutcome, Host.Outcome.next.injEq] at h
    exact .inl ⟨by simp, h.symm⟩
  | notWaiting =>
    simp only [hl] at h
    by_cases hp : s.pc.toNat ≤ 4094
    · rw [fetch_of_inside s hp] at h
      cases hd : decodeWord (s.word s.pc.toNat) with
      | none =>
        simp only [hd, stepOutcome, Host.Outcome.next.injEq] at h
        exact .inr (.inl ⟨rfl, hp, rfl, h.symm⟩)
      | some i =>
        simp only [hd] at h
        refine .inr (.inr ⟨i, ⟨hl, hp, decode_eq_ok.mpr ⟨hd, rfl⟩⟩, ?_⟩)
        cases he : exec i s.advance <;> simp_all [stepOutcome, raise]
    · rw [fetch_of_outside s (by omega)] at h
      simp [stepOutcome, raise] at h

/-- A fetched instruction is what the word at `pc` selects. -/
theorem Fetches.decodeWord_eq {s : State} {i : Instr} (h : Fetches s i) :
    decodeWord (s.word s.pc.toNat) = some i :=
  (decode_eq_ok.mp h.2.2).1

/-- A state fetches at most one instruction. -/
theorem Fetches.unique {s : State} {i j : Instr} (hi : Fetches s i) (hj : Fetches s j) : i = j :=
  Option.some.inj (hi.decodeWord_eq.symm.trans hj.decodeWord_eq)

end Sys2Proof.Machine
end

