-- ==== Sys2Proof/Laws/Safety.lean ====
section
/-! SUPPORT. Small lemmas about the terms that claims are stated in. -/

namespace Sys2Proof.Machine

theorem Keeps.refl (s : State) (p : Part) : Keeps s s p := by cases p <;> simp [Keeps]

theorem ChangesOnly.refl (ps : List Part) (s : State) : ChangesOnly ps s s := fun p _ => Keeps.refl s p

theorem Keeps.trans {s t u : State} {p : Part} (h : Keeps s t p) (h' : Keeps t u p) : Keeps s u p := by
  cases p <;> simp_all [Keeps]

theorem ChangesOnly.trans {ps : List Part} {s t u : State} (h : ChangesOnly ps s t) (h' : ChangesOnly ps t u) :
    ChangesOnly ps s u :=
  fun p hp => (h p hp).trans (h' p hp)

theorem ChangesOnly.mono {ps qs : List Part} {s t : State} (h : ChangesOnly ps s t) (hsub : ∀ p ∈ ps, p ∈ qs) :
    ChangesOnly qs s t :=
  fun p hp => h p fun hq => hp (hsub p hq)

/-- The sprite rows that the machine reads hit exactly the cells under the sprite. -/
theorem rowHit_readList (s : State) (n px py : Nat) (r : Fin fbRows) (c : Fin fbCols) :
    rowHit px py 0 (Memory.readList s.mem s.idx.toNat n) r c ↔ UnderSprite s n px py r c := by
  constructor
  · rintro ⟨i, hi, hr, j, -, hj, hb, hc⟩
    rw [Memory.readList_getElem] at hb
    rw [Memory.readList_length] at hi
    exact ⟨i, hi, j, by omega, hb, by simpa [wrapRow, Fin.ext_iff] using hr, by simpa [wrapCol, Fin.ext_iff] using hc⟩
  · rintro ⟨i, hi, j, hj, hb, hr, hc⟩
    refine ⟨i, by simpa using hi, by simpa [wrapRow, Fin.ext_iff] using hr, j, by omega, by omega, ?_, ?_⟩
    · rw [Memory.readList_getElem]
      exact hb
    · simpa [wrapCol, Fin.ext_iff] using hc

/-- The bounds check is the error of R241. -/
theorem guardRange_eq (s : State) (len : Nat) (k : Result) :
    guardRange s.idx len k = match rangeError s len with | some e => .fault e | none => k := by
  unfold guardRange rangeError raise
  by_cases h : 0 < len ∧ memSize < s.idx.toNat + len
  · rw [if_pos h, if_pos (by simp only [memSize] at h; omega)]
  · rw [if_neg h, if_neg (by simp only [memSize] at h; omega)]

/-- A bounds check ends two like outcomes alike. -/
theorem guardRange_same {ps : List Part} {base : Word} {len : Nat} {k k' : Result} (h : SameOutcome ps k k') :
    SameOutcome ps (guardRange base len k) (guardRange base len k') := by
  unfold guardRange
  split
  · rfl
  · exact h

end Sys2Proof.Machine
end

