-- ==== Sys2Proof/Tests/Slice0.lean ====
section
/-! SUPPORT. The model's own tests, their expected values taken from spec/95_test_vectors.md and spec/30_encoding.md, and a
witness for every statement that has hypotheses. -/

namespace Sys2Proof.Tests

open Sys2Proof Sys2Proof.Machine

/-! ### Helpers -/

/-- The next state of an outcome. -/
def stateOf : Result → Option State
  | .next t => some t
  | _ => none

/-- The fault of an outcome. -/
def faultOf : Result → Option Fault
  | .fault e => some e
  | _ => none

theorem completes {r : Result} (h : (stateOf r).isSome = true) : ∃ t, r = .next t := by
  cases r with
  | next t => exact ⟨t, rfl⟩
  | fault e => simp [stateOf] at h
  | refused e => simp [stateOf] at h

theorem faults {r : Result} {e : Fault} (h : faultOf r = some e) : r = .fault e := by
  cases r <;> simp_all [faultOf]

/-- A view of the state one Step of the given word leaves, the word placed at `pc`. -/
def seen {α : Type} (s : State) (w : Nat) (view : State → α) : Option α :=
  (stateOf (step (s.withFetchWord 16 w))).map view

/-- The fault of one Step of the given word. -/
def fails (s : State) (w : Nat) : Option Fault := faultOf (step (s.withFetchWord 16 w))

/-- The reset state with registers 1 and 2 and the flag register set. -/
def pair (a b f : Byte) : State := ((State.reset.setReg 1 a).setReg 2 b).setReg 15 f

/-- The reset state with bytes placed at 0x300 and `I` there. -/
def atIndex (bytes : List Byte) : State :=
  (State.reset.setMem (Memory.writeList [] 0x300 bytes)).setIdx 0x300#16

/-- The reset state with the given number of stack entries in use, the top one 0x0206. -/
def depth (p : Fin 17) : State := State.reset.setStack p (Vector.replicate 16 0x0206#16)

/-- The cells that are 1, as (row, column), among the given ones. -/
def lit (cells : List (Fin 32 × Fin 64)) (s : State) : List (Fin 32 × Fin 64) :=
  cells.filter fun p => s.cell p.1 p.2

/-! ### Well-formed operands -/

theorem test_wellformed_refuses_register_16 : fitsReg 15 = true ∧ fitsReg 16 = false := by decide
theorem test_wellformed_refuses_nibble_16 : fitsNibble 15 = true ∧ fitsNibble 16 = false := by decide
theorem test_wellformed_refuses_byte_256 : fitsByte 255 = true ∧ fitsByte 256 = false := by decide
theorem test_wellformed_refuses_address_4096 : fitsAddr 4095 = true ∧ fitsAddr 4096 = false := by decide

theorem test_noncanonical_words :
    [0x00E0#16, 0x00EE#16, 0x5120#16, 0x9120#16, 0xD125#16].map isCanonicalWord = [true, true, true, true, true] ∧
    [0x0000#16, 0x0AB0#16, 0x012E#16, 0x5127#16, 0x912F#16, 0xF999#16].map isCanonicalWord =
      [false, false, false, false, false, false] := by decide

/-! ### Decoding: words written out from 30_encoding.md R77 and 95_test_vectors.md 2.1 -/

theorem test_decode_class0 :
    decodeTableWord 16 0x00E0 = some .cls ∧ decodeTableWord 16 0x00EE = some .ret ∧
    decodeTableWord 16 0x0000 = some .cls ∧ decodeTableWord 16 0x0AB0 = some .cls ∧
    decodeTableWord 16 0x012E = some .ret ∧ decodeTableWord 16 0x00E1 = none ∧ decodeTableWord 16 0x0123 = none := by
  decide

theorem test_decode_addresses :
    decodeTableWord 16 0x1FFF = some (.jp 0xFFF#12) ∧ decodeTableWord 16 0x2210 = some (.call 0x210#12) ∧
    decodeTableWord 16 0xA300 = some (.ldI 0x300#12) ∧ decodeTableWord 16 0xB200 = some (.jpV0 0x200#12) := by decide

theorem test_decode_immediates :
    decodeTableWord 16 0x3F01 = some (.seImm 15 0x01#8) ∧ decodeTableWord 16 0x4206 = some (.sneImm 2 0x06#8) ∧
    decodeTableWord 16 0x6A3C = some (.ldImm 10 0x3C#8) ∧ decodeTableWord 16 0x73FF = some (.addImm 3 0xFF#8) ∧
    decodeTableWord 16 0xC30F = some (.rnd 3 0x0F#8) := by decide

theorem test_decode_register_skips :
    decodeTableWord 16 0x5340 = some (.seReg 3 4) ∧ decodeTableWord 16 0x5127 = some (.seReg 1 2) ∧
    decodeTableWord 16 0x9340 = some (.sneReg 3 4) ∧ decodeTableWord 16 0x912F = some (.sneReg 1 2) := by decide

theorem test_decode_class8 :
    decodeTableWord 16 0x8120 = some (.ldReg 1 2) ∧ decodeTableWord 16 0x8121 = some (.orReg 1 2) ∧
    decodeTableWord 16 0x8122 = some (.andReg 1 2) ∧ decodeTableWord 16 0x8123 = some (.xorReg 1 2) ∧
    decodeTableWord 16 0x8124 = some (.addReg 1 2) ∧ decodeTableWord 16 0x8125 = some (.subReg 1 2) ∧
    decodeTableWord 16 0x8126 = some (.shr 1 2) ∧ decodeTableWord 16 0x8127 = some (.subnReg 1 2) ∧
    decodeTableWord 16 0x812E = some (.shl 1 2) ∧ decodeTableWord 16 0x8128 = none ∧
    decodeTableWord 16 0x812F = none := by decide

theorem test_decode_sprite_and_keys :
    decodeTableWord 16 0xD125 = some (.drw 1 2 0x5#4) ∧ decodeTableWord 16 0xE49E = some (.skp 4) ∧
    decodeTableWord 16 0xE4A1 = some (.sknp 4) ∧ decodeTableWord 16 0xE19F = none ∧
    decodeTableWord 16 0xE10E = none := by decide

theorem test_decode_classF :
    decodeTableWord 16 0xF307 = some (.ldVxDt 3) ∧ decodeTableWord 16 0xF50A = some (.ldVxK 5) ∧
    decodeTableWord 16 0xF015 = some (.ldDtVx 0) ∧ decodeTableWord 16 0xF518 = some (.ldStVx 5) ∧
    decodeTableWord 16 0xF21E = some (.addI 2) ∧ decodeTableWord 16 0xF029 = some (.ldF 0) ∧
    decodeTableWord 16 0xF033 = some (.ldB 0) ∧ decodeTableWord 16 0xF155 = some (.storeRegs 1) ∧
    decodeTableWord 16 0xF265 = some (.loadRegs 2) := by decide

theorem test_decode_classF_unknown :
    decodeTableWord 16 0xF175 = none ∧ decodeTableWord 16 0xF999 = none ∧ decodeTableWord 16 0xF100 = none ∧
    decodeTableWord 16 0xFFFF = none := by decide

theorem test_decode_bytes_big_endian :
    decode [0x12#8, 0x04#8, 0xAB#8] = .ok (.jp 0x204#12, [0xAB#8]) ∧ decode [0x12#8] = .error .truncated := by decide

theorem test_encode_canonical :
    encode .cls = 0x00E0#16 ∧ encode .ret = 0x00EE#16 ∧ encode (.seReg 1 2) = 0x5120#16 ∧
    encode (.drw 1 2 0x5#4) = 0xD125#16 ∧ encode (.loadRegs 2) = 0xF265#16 := by decide

theorem test_assembler_text :
    asmText (.drw 1 2 0x5#4) = "DRW V1, V2, 0x5" ∧ asmText (.storeRegs 1) = "LD [I], V1" ∧
    asmText (.jpV0 0x300#12) = "JP V0, 0x300" ∧ asmText (.seImm 15 0x01#8) = "SE VF, 0x01" := by decide

/-! ### Control transfer (95_test_vectors.md 2.3) -/

theorem test_jp : seen (State.reset.setPc 0x20A#16) 0x1204 (·.pc) = some 0x204#16 := by decide

theorem test_jpV0 : seen (State.reset.setReg 0 0xFF#8) 0xBFFF (·.pc) = some 0x10FE#16 := by decide

theorem test_call :
    seen (State.reset.setPc 0x204#16) 0x2210 (fun t => (t.pc, t.sp, t.stack[0])) = some (0x210#16, 1, 0x206#16) := by
  decide

theorem test_call_overflow :
    seen ((depth 15).setPc 0x250#16) 0x2300 (fun t => (t.sp, t.stack[15])) = some (16, 0x252#16) ∧
    fails (depth 16) 0x2300 = some .stackOverflow := by decide

theorem test_ret :
    seen (depth 1) 0x00EE (fun t => (t.pc, t.sp, t.stack[0])) = some (0x206#16, 0, 0x206#16) := by decide

theorem test_ret_underflow : fails State.reset 0x00EE = some .stackUnderflow := by decide

/-! ### Skips (2.4) -/

theorem test_seImm :
    seen (State.reset.setPc 0x208#16) 0x3100 (·.pc) = some 0x20C#16 ∧
    seen ((pair 1 0 0).setPc 0x208#16) 0x3100 (·.pc) = some 0x20A#16 := by decide

theorem test_sneImm :
    seen ((pair 0 5 0).setPc 0x300#16) 0x4206 (·.pc) = some 0x304#16 ∧
    seen ((pair 0 5 0).setPc 0x300#16) 0x4205 (·.pc) = some 0x302#16 := by decide

theorem test_seReg :
    seen (pair 0x7F 0x7F 0) 0x5120 (·.pc) = some 0x204#16 ∧ seen (pair 1 2 0) 0x5120 (·.pc) = some 0x202#16 := by decide

theorem test_sneReg :
    seen (pair 1 2 0) 0x9120 (·.pc) = some 0x204#16 ∧ seen (pair 1 2 0) 0x9110 (·.pc) = some 0x202#16 := by decide

/-! ### Immediates and random (2.5) -/

theorem test_ldImm : seen State.reset 0x6A3C (fun t => (t.reg 10, t.pc)) = some (0x3C#8, 0x202#16) := by decide

theorem test_addImm_wraps_without_flag :
    seen (pair 0x12 0 0xAB) 0x71FF (fun t => (t.reg 1, t.reg 15)) = some (0x11#8, 0xAB#8) := by decide

theorem test_rnd : exec (.rnd 3 0x0F#8) State.reset =
    .next ((State.reset.setReg 3 (Config.random 0 &&& 0x0F#8)).setDraws 1) := rfl

theorem test_rnd_mask : (0xA7#8 &&& 0x0F#8 : Byte) = 0x07#8 ∧ ∀ b : Byte, b &&& 0x00#8 = 0x00#8 := by decide

/-! ### Register operations (2.6) -/

theorem test_ldReg : seen (pair 0x11 0x9C 7) 0x8120 (fun t => (t.reg 1, t.reg 15)) = some (0x9C#8, 7#8) := by decide

theorem test_orReg : seen (pair 0xF0 0x0F 7) 0x8121 (fun t => (t.reg 1, t.reg 15)) = some (0xFF#8, 7#8) := by decide

theorem test_andReg : seen (pair 0xF0 0x3C 7) 0x8122 (fun t => (t.reg 1, t.reg 15)) = some (0x30#8, 7#8) := by decide

theorem test_xorReg : seen (pair 0xFF 0x0F 7) 0x8123 (fun t => (t.reg 1, t.reg 15)) = some (0xF0#8, 7#8) := by decide

theorem test_addReg :
    seen (pair 0xFF 0x01 7) 0x8124 (fun t => (t.reg 1, t.reg 2, t.reg 15)) = some (0x00#8, 0x01#8, 1#8) ∧
    seen (pair 0x7F 0x80 7) 0x8124 (fun t => (t.reg 1, t.reg 15)) = some (0xFF#8, 0#8) := by decide

theorem test_addReg_flag_register :
    seen (pair 1 0 0x10) 0x8F14 (·.reg 15) = some 0#8 ∧
    seen (pair 1 0 0xFF) 0x81F4 (fun t => (t.reg 1, t.reg 15)) = some (0x00#8, 1#8) := by decide

theorem test_subReg :
    seen (pair 0x01 0x05 7) 0x8125 (fun t => (t.reg 1, t.reg 15)) = some (0xFC#8, 0#8) ∧
    seen (pair 0x07 0x07 7) 0x8125 (fun t => (t.reg 1, t.reg 15)) = some (0x00#8, 1#8) := by decide

theorem test_subReg_flag_register :
    seen (pair 1 0 5) 0x8F15 (·.reg 15) = some 1#8 ∧ seen (pair 5 0 1) 0x8F15 (·.reg 15) = some 0#8 := by decide

theorem test_subnReg :
    seen (pair 0x01 0x05 7) 0x8127 (fun t => (t.reg 1, t.reg 15)) = some (0x04#8, 1#8) ∧
    seen (pair 0x05 0x01 7) 0x8127 (fun t => (t.reg 1, t.reg 15)) = some (0xFC#8, 0#8) := by decide

theorem test_subnReg_flag_register : seen (pair 5 0 1) 0x8F17 (·.reg 15) = some 1#8 := by decide

theorem test_shr :
    (shiftRight .regX 1 2 (pair 0x05 0xF0 7)).regs = (pair 0x02 0xF0 1).regs ∧
    (shiftRight .regY 1 2 (pair 0x05 0xF0 7)).regs = (pair 0x78 0xF0 0).regs := by decide

theorem test_shr_flag_register : (shiftRight .regX 15 0 (pair 0 0 5)).reg 15 = 2#8 := by decide

theorem test_shl :
    (shiftLeft .regX 1 2 (pair 0x81 0x40 7)).regs = (pair 0x02 0x40 1).regs ∧
    (shiftLeft .regY 1 2 (pair 0x81 0x40 7)).regs = (pair 0x80 0x40 0).regs := by decide

theorem test_shl_flag_register :
    (shiftLeft .regX 15 0 (pair 0 0 0x81)).reg 15 = 2#8 ∧ (shiftRight .regY 15 2 (pair 0 5 0)).reg 15 = 2#8 := by decide

/-! ### Index and memory (2.7) -/

theorem test_ldI : seen State.reset 0xAFFF (·.idx) = some 0x0FFF#16 := by decide

theorem test_addI :
    seen ((pair 0 1 7).setIdx 0x0FFF#16) 0xF21E (fun t => (t.idx, t.reg 15)) = some (0x1000#16, 7#8) ∧
    seen ((pair 0 1 7).setIdx 0xFFFF#16) 0xF21E (fun t => (t.idx, t.reg 15)) = some (0x0000#16, 7#8) := by decide

theorem test_ldF :
    seen (State.reset.setReg 0 0x0F#8) 0xF029 (·.idx) = some 0x004B#16 ∧
    seen (State.reset.setReg 0 0xFF#8) 0xF029 (·.idx) = some 0x04FB#16 := by decide

theorem test_ldB :
    seen ((State.reset.setReg 0 254#8).setIdx 0x300#16) 0xF033 (fun t => [t.byte 0x300, t.byte 0x301, t.byte 0x302]) =
      some [2#8, 5#8, 4#8] := by decide

theorem test_ldB_bounds :
    seen ((State.reset.setReg 0 128#8).setIdx 0xFFD#16) 0xF033 (fun t => [t.byte 0xFFD, t.byte 0xFFE, t.byte 0xFFF]) =
      some [1#8, 2#8, 8#8] ∧
    fails ((State.reset.setReg 0 128#8).setIdx 0xFFE#16) 0xF033 = some (.memoryOutOfRange 4096) := by decide

theorem test_storeRegs :
    seen (((State.reset.setReg 0 0x12#8).setReg 1 0x08#8).setIdx 0x208#16) 0xF155
      (fun t => ([t.byte 0x208, t.byte 0x209, t.byte 0x20A], t.idx)) =
      some ([0x12#8, 0x08#8, 0#8], 0x208#16) := by decide

theorem test_storeRegs_bounds :
    seen ((State.reset.setReg 0 0xAA#8).setIdx 0xFFF#16) 0xF055 (·.byte 0xFFF) = some 0xAA#8 ∧
    fails (State.reset.setIdx 0xFFF#16) 0xF155 = some (.memoryOutOfRange 4096) := by decide

theorem test_loadRegs_glyph :
    seen State.reset 0xF465 (fun t => [t.reg 0, t.reg 1, t.reg 2, t.reg 3, t.reg 4, t.reg 5]) =
      some [Config.glyphRom 0, Config.glyphRom 1, Config.glyphRom 2, Config.glyphRom 3, Config.glyphRom 4, 0#8] := rfl

/-- 10_state.md R41, the default font: glyphs 0, 7 and F, and the byte after them. -/
theorem test_default_font :
    [0, 1, 2, 3, 4].map (memContent defaultGlyphRom) = [0xF0#8, 0x90#8, 0x90#8, 0x90#8, 0xF0#8] ∧
    [0x23, 0x24, 0x25, 0x26, 0x27].map (memContent defaultGlyphRom) = [0xF0#8, 0x10#8, 0x20#8, 0x40#8, 0x40#8] ∧
    [0x4B, 0x4C, 0x4D, 0x4E, 0x4F, 0x50].map (memContent defaultGlyphRom) =
      [0xF0#8, 0x80#8, 0xF0#8, 0x80#8, 0x80#8, 0#8] := by decide

theorem test_loadRegs_bounds :
    fails (State.reset.setIdx 0x2345#16) 0xF065 = some (.memoryOutOfRange 0x2345) ∧
    seen (atIndex [2, 5, 4]) 0xF265 (fun t => ([t.reg 0, t.reg 1, t.reg 2], t.idx)) =
      some ([2#8, 5#8, 4#8], 0x300#16) := by decide

theorem test_memory_canonical :
    Memory.write (Memory.write [] 0x300 7) 0x300 0 = [] ∧
    Memory.write (Memory.write [] 0x300 7) 0x200 9 = [(0x200, 9#8), (0x300, 7#8)] := by decide

theorem test_memory_canonical_glyph : Memory.write [(0x300, 7#8)] 0x000 (Config.glyphRom 0) = [(0x300, 7#8)] := if_pos rfl

/-! ### Display (2.8) -/

theorem test_cls :
    seen ((pair 0 0 0).setFb (Vector.replicate 32 (Vector.replicate 64 true))) 0x00E0
      (fun t => (lit [(0, 0), (31, 63)] t, t.fbChanged, t.pc)) = some ([], true, 0x202#16) := by decide

theorem test_drw_wraps :
    seen (((atIndex [0xC0, 0x80]).setReg 1 254#8).setReg 2 255#8) 0xD122
      (fun t => (lit [(31, 62), (31, 63), (0, 62), (31, 0), (0, 0), (0, 63)] t, t.reg 15)) =
      some ([(31, 62), (31, 63), (0, 62)], 0#8) := by decide

theorem test_drw_collides :
    (stateOf (exec (.drw 1 2 1) ((drawAt 1 2 [0x80] State.reset).setReg 15 7
      |>.setMem (Memory.writeList [] 0x300 [0xC0]) |>.setIdx 0x300#16))).map
      (fun t => (lit [(0, 0), (0, 1)] t, t.reg 15)) = some ([(0, 1)], 1#8) := by decide

/-! ### Keypad (2.9) -/

theorem test_skp :
    seen (((State.reset.setReg 4 15#8).setKey 15 true).setPc 0x220#16) 0xE49E (·.pc) = some 0x224#16 ∧
    seen ((State.reset.setReg 4 7#8).setPc 0x220#16) 0xE49E (·.pc) = some 0x222#16 := by decide

theorem test_skp_index : fails (State.reset.setReg 4 0x10#8) 0xE49E = some (.keypadIndexOutOfRange 16#8) := by decide

theorem test_sknp :
    seen ((State.reset.setReg 4 7#8).setPc 0x220#16) 0xE4A1 (·.pc) = some 0x224#16 ∧
    seen (((State.reset.setReg 4 7#8).setKey 7 true).setPc 0x220#16) 0xE4A1 (·.pc) = some 0x222#16 := by decide

theorem test_sknp_index : fails (State.reset.setReg 4 0x17#8) 0xE4A1 = some (.keypadIndexOutOfRange 23#8) := by decide

theorem test_ldVxK :
    seen (State.reset.setKey 3 true) 0xF50A (fun t => (t.latch, t.pc, t.reg 5)) =
      some (.waiting 5, 0x200#16, 0#8) := by decide

theorem test_key_press_resolves :
    let t := keyEvent 0xA .pressed (State.reset.setLatch (.waiting 15))
    (t.reg 15, t.key 10, t.latch, t.pc) = (0x0A#8, true, .notWaiting, 0x202#16) := by decide

theorem test_key_release_keeps_waiting :
    let t := keyEvent 3 .released ((State.reset.setKey 3 true).setLatch (.waiting 5))
    (t.key 3, t.latch, t.pc) = (false, .waiting 5, 0x200#16) := by decide

/-! ### Timers (2.10) -/

theorem test_ldVxDt : seen (State.reset.setDt 0x2A#8) 0xF307 (fun t => (t.reg 3, t.dt)) = some (0x2A#8, 0x2A#8) := by decide

theorem test_ldDtVx : seen (State.reset.setReg 0 7#8) 0xF015 (fun t => (t.dt, t.st)) = some (7#8, 0#8) := by decide

theorem test_ldStVx : seen (State.reset.setReg 5 0x1E#8) 0xF518 (fun t => (t.dt, t.st)) = some (0#8, 0x1E#8) := by decide

theorem test_tick :
    (timerTick ((State.reset.setDt 7#8).setSt 1#8)).dt = 6#8 ∧ (timerTick ((State.reset.setDt 7#8).setSt 1#8)).st = 0#8 ∧
    (timerTick State.reset).dt = 0#8 := by decide

/-! ### The step cycle and the host's operations (2.2, 2.11) -/

theorem test_fetch_bounds :
    seen (State.reset.setPc 4094#16) 0x6007 (fun t => (t.reg 0, t.pc)) = some (7#8, 4096#16) ∧
    faultOf (step (State.reset.setPc 4095#16)) = some (.fetchOutOfRange 4095#16) := by decide

theorem test_glyph_bytes_as_code :
    fetch (State.reset.setPc 0#16) = .ok (wordOfBytes (Config.glyphRom 0) (Config.glyphRom 1)) := rfl

theorem test_default_glyph_bytes_as_code :
    wordOfBytes (memContent defaultGlyphRom 0) (memContent defaultGlyphRom 1) = 0xF090#16 ∧
    decodeWord 0xF090#16 = none := by decide

theorem test_blocked : stepOp (State.reset.setLatch (.waiting 2)) = .ok (.blocked, State.reset.setLatch (.waiting 2)) := by
  decide

theorem test_odd_pc : seen (State.reset.setPc 0x201#16) 0x6A55 (fun t => (t.reg 10, t.pc)) = some (0x55#8, 0x203#16) := by
  decide

theorem test_load_program :
    loadProgram [0x12, 0x00] State.reset = .ok (State.reset.setMem [(0x200, 0x12#8)]) := by decide

/-! ### Witnesses: a state and operands that meet the hypotheses of each statement, at the boundaries of its clauses -/

theorem witness_decode_of_encode :
    (Instr.drw 15 15 0xF#4).wellFormed = true ∧ (Instr.jp 0xFFF#12).wellFormed = true ∧
    (Instr.seImm 0 0xFF#8).wellFormed = true ∧ Instr.cls.wellFormed = true := by decide

theorem witness_decoding_keeps_used_bits :
    decodeWord 0x5127#16 = some (.seReg 1 2) ∧ decodeWord 0x0AB0#16 = some .cls ∧
    decodeWord 0xD125#16 = some (.drw 1 2 0x5#4) := by decide

theorem witness_unknown_words_low :
    (decodeWord 0x0001#16 = none ∧ unknownByTable 0x0001#16) ∧ decodeWord 0x812F#16 = none ∧ unknownByTable 0x812F#16 := by
  refine ⟨⟨by decide, .inl (by decide)⟩, by decide, .inr (.inl (by decide))⟩

theorem witness_unknown_words_high :
    (decodeWord 0xE10E#16 = none ∧ unknownByTable 0xE10E#16) ∧ decodeWord 0xF175#16 = none ∧ unknownByTable 0xF175#16 := by
  refine ⟨⟨by decide, .inr (.inr (.inl (by decide)))⟩, by decide, .inr (.inr (.inr (by decide)))⟩

theorem witness_opcode_map :
    decodeWord 0x812E#16 = some (.shl 1 2) ∧
    ∃ r ∈ opcodeRows 0x812E#16, 0x812E#16 &&& r.mask = r.code ∧ r.instr = .shl 1 2 := by decide

theorem witness_fetches :
    Fetches (State.reset.withFetchWord 16 0x6A55) (.ldImm 10 0x55#8) ∧
    Fetches ((State.reset.setPc 4094#16).withFetchWord 16 0x1FFF) (.jp 0xFFF#12) := by
  unfold Fetches
  decide

theorem witness_blocked : (State.reset.setLatch (.waiting 15)).latch = .waiting 15 := rfl

theorem witness_fetch_clauses :
    (State.reset.setPc 4094#16).pc.toNat ≤ 4094 ∧ 4095 ≤ (State.reset.setPc 4095#16).pc.toNat ∧
    (State.reset.setPc 4095#16).latch = .notWaiting := by decide

theorem witness_unknown_word :
    let s := State.reset.withFetchWord 16 0xF999
    s.latch = .notWaiting ∧ s.pc.toNat ≤ 4094 ∧ decodeWord (s.word s.pc.toNat) = none := by decide

theorem witness_handler_errors :
    handlerError .ret (depth 0) = some .stackUnderflow ∧ handlerError (.call 0x300#12) (depth 16) = some .stackOverflow ∧
    handlerError (.drw 1 2 0xF#4) (State.reset.setIdx 0xFF2#16) = some (.memoryOutOfRange 4096) ∧
    handlerError (.ldB 0) (State.reset.setIdx 0xFFE#16) = some (.memoryOutOfRange 4096) ∧
    handlerError (.storeRegs 15) (State.reset.setIdx 0xFF1#16) = some (.memoryOutOfRange 4096) ∧
    handlerError (.loadRegs 0) (State.reset.setIdx 0x2345#16) = some (.memoryOutOfRange 0x2345) ∧
    handlerError (.skp 4) (State.reset.setReg 4 16#8) = some (.keypadIndexOutOfRange 16#8) ∧
    handlerError (.sknp 4) (State.reset.setReg 4 255#8) = some (.keypadIndexOutOfRange 255#8) := by decide

theorem witness_handler_completes :
    handlerError .ret (depth 1) = none ∧ handlerError (.call 0x300#12) (depth 15) = none ∧
    handlerError (.drw 1 2 0xF#4) (State.reset.setIdx 0xFF1#16) = none ∧
    handlerError (.drw 1 2 0x0#4) (State.reset.setIdx 0xFFFF#16) = none ∧
    handlerError (.ldB 0) (State.reset.setIdx 0xFFD#16) = none ∧
    handlerError (.storeRegs 15) (State.reset.setIdx 0xFF0#16) = none ∧
    handlerError (.loadRegs 0) (State.reset.setIdx 0xFFF#16) = none ∧
    handlerError (.skp 4) (State.reset.setReg 4 15#8) = none ∧ handlerError .cls State.reset = none := by decide

theorem witness_step_faults :
    step (State.reset.setPc 4095#16) = .fault (.fetchOutOfRange 4095#16) ∧
    step (State.reset.withFetchWord 16 0x00EE) = .fault .stackUnderflow :=
  ⟨faults (by decide), faults (by decide)⟩

theorem witness_fatal_step :
    stepOp (State.reset.setPc 4095#16) = .ok (.fatal (.fetchOutOfRange 4095#16), State.reset.setPc 4095#16) ∧
    stepOp (State.reset.withFetchWord 16 0x00EE) =
      .ok (.fatal .stackUnderflow, (State.reset.withFetchWord 16 0x00EE).setPc 0x202#16) := by decide

theorem witness_fault_mark_kept :
    Operation.timerTick ≠ .step ∧ Operation.timerTick ≠ .reset ∧ Operation.loadProgram [0x12] ≠ .step ∧
    Operation.loadProgram [0x12] ≠ .reset ∧ Operation.keyEvent 15 .pressed ≠ .step ∧
    Operation.keyEvent 15 .pressed ≠ .reset := by decide

theorem witness_frames :
    (∃ t, exec (.loadRegs 3) (State.reset.setPc 0x202#16) = .next t) ∧ writesReg 4 (.loadRegs 3) = false ∧
    (∃ t, exec (.storeRegs 15) (State.reset.setIdx 0xFF0#16) = .next t) ∧
    ¬ storesTo (.storeRegs 15) (State.reset.setIdx 0xFF0#16) 0xFEF ∧
    (∃ t, exec (.ldB 0) State.reset = .next t) ∧ ¬ storesTo (.ldB 0) State.reset 3 :=
  ⟨completes (by decide), by decide, completes (by decide), by unfold storesTo; decide, completes (by decide),
    by unfold storesTo; decide⟩

theorem witness_flag_writers :
    (∃ t, exec (.addReg 15 15) (pair 0 0 9) = .next t) ∧ leavesFlag (.addReg 15 15) = true ∧
    (∃ t, exec (.shr 1 2) State.reset = .next t) ∧ leavesFlag (.shr 1 2) = true ∧
    (∃ t, exec (.drw 15 15 0x0#4) (pair 0 0 9) = .next t) ∧ leavesFlag (.drw 15 15 0x0#4) = true :=
  ⟨completes (by decide), by decide, ⟨_, rfl⟩, by decide, completes (by decide), by decide⟩

theorem witness_stack_entries :
    seen (depth 15) 0x2300 (fun t => (decide ((14 : Fin 16).val < (depth 15).sp.val), decide ((14 : Fin 16).val < t.sp.val))) =
      some (true, true) ∧
    (∃ t, exec (.call 0x300#12) (depth 15) = .next t) :=
  ⟨by decide, completes (by decide)⟩

theorem witness_shift_operand (s : State) (x y : RegIdx) :
    ∃ src : Byte, src = if Config.shiftSource = .regX then s.reg x else s.reg y := ⟨_, rfl⟩

theorem witness_bcd_clauses :
    (State.reset.setIdx 0xFFD#16).idx.toNat + 2 ≤ 4095 ∧ 4095 < (State.reset.setIdx 0xFFE#16).idx.toNat + 2 := by decide

theorem witness_block_clauses :
    (State.reset.setIdx 0xFF0#16).idx.toNat + (15 : RegIdx).val ≤ 4095 ∧
    4095 < (State.reset.setIdx 0xFF1#16).idx.toNat + (15 : RegIdx).val ∧
    (State.reset.setIdx 0xFFF#16).idx.toNat + (0 : RegIdx).val ≤ 4095 ∧
    4095 < (State.reset.setIdx 0x1000#16).idx.toNat + (0 : RegIdx).val := by decide

theorem witness_stored_instruction :
    (∃ t, exec (.storeRegs 15) (State.reset.setIdx 0xFF0#16) = .next t) ∧
    (15 : RegIdx).val = (14 : RegIdx).val + 1 ∧ (15 : RegIdx) ≤ 15 :=
  ⟨completes (by decide), by decide, by decide⟩

theorem witness_step_next :
    (∃ t, step (State.reset.withFetchWord 16 0xF015) = .next t) ∧
    ∃ t, step (State.reset.setLatch (.waiting 0)) = .next t :=
  ⟨completes (by decide), completes (by decide)⟩

theorem witness_jump_to_itself :
    Fetches (State.reset.withFetchWord 16 0x1200) (.jp 0x200#12) ∧
    (State.reset.withFetchWord 16 0x1200).pc.toNat = (0x200#12 : Addr12).toNat := by
  unfold Fetches
  decide

theorem witness_stack_clauses :
    (depth 15).sp.val < 16 ∧ (depth 16).sp.val = 16 ∧ 0 < (depth 1).sp.val ∧ (depth 0).sp.val = 0 ∧
    0 < (depth 16).sp.val := by decide

theorem witness_nested_calls :
    (depth 0).sp.val + (List.replicate 16 0x300#12).length ≤ 16 ∧
    16 < (depth 0).sp.val + (List.replicate 17 0x300#12).length ∧ (depth 16).sp.val + ([] : List Addr12).length ≤ 16 ∧
    16 < (depth 16).sp.val + [0x300#12].length := by decide

theorem witness_key_index :
    ((State.reset.setReg 4 15#8).reg 4).toNat = (15 : KeyIdx).val ∧ 15 < ((State.reset.setReg 4 16#8).reg 4).toNat := by
  decide

theorem witness_key_wait :
    Fetches (State.reset.withFetchWord 16 0xFF0A) (.ldVxK 15) ∧
    Fetches ((State.reset.setPc 4094#16).withFetchWord 16 0xF00A) (.ldVxK 0) := by
  unfold Fetches
  decide

theorem witness_latch_set :
    let s := State.reset.withFetchWord 16 0xF50A
    s.latch = .notWaiting ∧ ∃ t, step s = .next t ∧ t.latch = .waiting 5 := ⟨by decide, _, rfl, by decide⟩

theorem witness_latch_released :
    (State.reset.setLatch (.waiting 5)).latch ≠ .notWaiting ∧
    hostOp (.keyEvent 3 .pressed) (.running (State.reset.setLatch (.waiting 5))) =
      .next (.none, .running (keyEvent 3 .pressed (State.reset.setLatch (.waiting 5)))) := ⟨by decide, rfl⟩

theorem witness_key_event : State.reset.latch = .notWaiting := rfl

theorem witness_draw_clauses :
    ((0x0#4 : Nibble) = 0 ∧ (State.reset.setIdx 0xFFFF#16).idx.toNat = 65535) ∧
    (State.reset.setIdx 0xFF1#16).idx.toNat + (0xF#4 : Nibble).toNat ≤ 4096 ∧
    ((0xF#4 : Nibble) ≠ 0 ∧ 4096 < (State.reset.setIdx 0xFF2#16).idx.toNat + (0xF#4 : Nibble).toNat) ∧
    ((0x1#4 : Nibble) ≠ 0 ∧ 4096 < (State.reset.setIdx 0x1000#16).idx.toNat + (0x1#4 : Nibble).toNat) := by decide

theorem witness_draw_twice :
    (∃ t, exec (.drw 1 2 2) (((atIndex [0xC0, 0x80]).setReg 1 62#8).setReg 2 31#8) = .next t ∧
      t.reg 1 = 62#8 ∧ t.reg 2 = 31#8) ∧
    ∃ t, exec (.drw 15 15 0x0#4) State.reset = .next t ∧ t.reg 15 = State.reset.reg 15 :=
  ⟨⟨_, rfl, by decide, by decide⟩, _, rfl, by decide⟩

theorem witness_load_clauses :
    (List.replicate 3584 (0x12 : Byte)).length ≤ 3584 ∧ 3584 < (List.replicate 3585 (0x12 : Byte)).length :=
  ⟨List.length_replicate.le, List.length_replicate.symm ▸ (by decide : 3584 < 3585)⟩

/-- A state with a stored byte and a call in progress, which a run reaches; the invariant holds and its step calls. -/
def calling : State := ((depth 1).setMem [(0x300, 7#8)]).withFetchWord 16 0x2300

theorem witness_invariant_kept : calling.Inv ∧ ∃ t, step calling = .next t :=
  ⟨⟨by decide, by decide, by decide, by decide⟩, completes (by decide)⟩

theorem witness_invariant_waiting :
    (calling.setLatch (.waiting 3)).Inv ∧
    hostOp (.keyEvent 7 .pressed) (.running (calling.setLatch (.waiting 3))) =
      .next (.none, .running (keyEvent 7 .pressed (calling.setLatch (.waiting 3)))) :=
  ⟨⟨by decide, by decide, by decide, by decide⟩, rfl⟩

theorem witness_invariant_faulted :
    (sessionState (.faulted .stackUnderflow calling)).Inv ∧
    hostOp .timerTick (.faulted .stackUnderflow calling) =
      .next (.none, .faulted .stackUnderflow (timerTick calling)) :=
  ⟨⟨by decide, by decide, by decide, by decide⟩, rfl⟩

end Sys2Proof.Tests
end

section
/-! PROOFS. What each instruction leaves unchanged, field by field as data. -/

namespace Sys2Proof.Machine

/-! ### Frames on the data of the state -/

/-- `t` has the same data as `s` in one part. `Keeps` is what a reader of the state sees of it: it compares memory byte by
byte, where this compares the lists of cells, so that the canonical form is kept too. -/
def KeepsField (s t : State) : Part → Prop
  | .regs => t.regs = s.regs
  | .pc => t.pc = s.pc
  | .idx => t.idx = s.idx
  | .stack => t.sp = s.sp ∧ t.stack = s.stack
  | .dt => t.dt = s.dt
  | .st => t.st = s.st
  | .mem => t.mem = s.mem
  | .fb => t.fb = s.fb
  | .fbChanged => t.fbChanged = s.fbChanged
  | .keys => t.keys = s.keys
  | .latch => t.latch = s.latch
  | .draws => t.draws = s.draws

/-- `t` differs from `s`, as data, at most in the listed parts. -/
def WritesOnly (ps : List Part) (s t : State) : Prop := ∀ p, p ∉ ps → KeepsField s t p

theorem KeepsField.keeps {s t : State} {p : Part} (h : KeepsField s t p) : Keeps s t p := by
  cases p <;> simp_all [KeepsField, Keeps, State.reg, State.byte, State.cell, State.key]

theorem KeepsField.trans {s t u : State} {p : Part} (h : KeepsField s t p) (h' : KeepsField t u p) :
    KeepsField s u p := by
  cases p <;> simp_all [KeepsField]

theorem WritesOnly.changesOnly {ps : List Part} {s t : State} (h : WritesOnly ps s t) : ChangesOnly ps s t :=
  fun p hp => (h p hp).keeps

theorem WritesOnly.refl (ps : List Part) (s : State) : WritesOnly ps s s := fun p _ => by
  cases p <;> simp [KeepsField]

/-- Writes made one after the other write the parts of both. -/
theorem WritesOnly.append {ps qs : List Part} {s t u : State} (h : WritesOnly ps s t) (h' : WritesOnly qs t u) :
    WritesOnly (ps ++ qs) s u := fun p hp => by
  rw [List.mem_append, not_or] at hp
  exact (h p hp.1).trans (h' p hp.2)

/-! Each setter writes its own part. The setters of one register, of the flag and of a result with its flag are all cases of
`State.setRegs`. -/

theorem setRegs_writesOnly (s : State) (v : Vector Byte 16) : WritesOnly [.regs] s (s.setRegs v) := fun p hp => by
  cases p <;> simp_all [KeepsField]

theorem setPc_writesOnly (s : State) (v : Word) : WritesOnly [.pc] s (s.setPc v) := fun p hp => by
  cases p <;> simp_all [KeepsField]

theorem setIdx_writesOnly (s : State) (v : Word) : WritesOnly [.idx] s (s.setIdx v) := fun p hp => by
  cases p <;> simp_all [KeepsField]

theorem setStack_writesOnly (s : State) (n : Fin 17) (v : Vector Word 16) :
    WritesOnly [.stack] s (s.setStack n v) := fun p hp => by
  cases p <;> simp_all [KeepsField]

theorem setDt_writesOnly (s : State) (v : Byte) : WritesOnly [.dt] s (s.setDt v) := fun p hp => by
  cases p <;> simp_all [KeepsField]

theorem setSt_writesOnly (s : State) (v : Byte) : WritesOnly [.st] s (s.setSt v) := fun p hp => by
  cases p <;> simp_all [KeepsField]

theorem setMem_writesOnly (s : State) (m : Memory) : WritesOnly [.mem] s (s.setMem m) := fun p hp => by
  cases p <;> simp_all [KeepsField]

theorem setFb_writesOnly (s : State) (v : Framebuffer) : WritesOnly [.fb] s (s.setFb v) := fun p hp => by
  cases p <;> simp_all [KeepsField]

theorem setFbChanged_writesOnly (s : State) (b : Bool) : WritesOnly [.fbChanged] s (s.setFbChanged b) := fun p hp => by
  cases p <;> simp_all [KeepsField]

theorem setKey_writesOnly (s : State) (k : KeyIdx) (b : Bool) : WritesOnly [.keys] s (s.setKey k b) := fun p hp => by
  cases p <;> simp_all [KeepsField]

theorem setLatch_writesOnly (s : State) (l : Latch) : WritesOnly [.latch] s (s.setLatch l) := fun p hp => by
  cases p <;> simp_all [KeepsField]

theorem setDraws_writesOnly (s : State) (n : Nat) : WritesOnly [.draws] s (s.setDraws n) := fun p hp => by
  cases p <;> simp_all [KeepsField]

theorem skipIf_writesOnly (s : State) (b : Bool) : WritesOnly [.pc] s (s.skipIf b) := by
  cases b
  · exact WritesOnly.refl _ _
  · exact setPc_writesOnly _ _

/-- The frame of all 34 instructions: each writes at most the parts listed for it. -/
theorem exec_writesOnly {i : Instr} {s t : State} (h : exec i s = .next t) : WritesOnly (mayChange i) s t := by
  cases i with
  | ldImm | addImm | ldReg | orReg | andReg | xorReg | addReg | subReg | shr | subnReg | shl | ldVxDt =>
    obtain rfl := Host.Outcome.next.inj h
    exact setRegs_writesOnly _ _
  | rnd x nn =>
    obtain rfl := Host.Outcome.next.inj h
    exact (setRegs_writesOnly s _).append (setDraws_writesOnly _ _)
  | loadRegs x =>
    obtain ⟨-, rfl⟩ := exec_loadRegs_next h
    exact setRegs_writesOnly _ _
  | seImm | sneImm | seReg | sneReg =>
    obtain rfl := Host.Outcome.next.inj h
    exact skipIf_writesOnly _ _
  | skp x =>
    obtain ⟨_, rfl⟩ := exec_skp_next h
    exact skipIf_writesOnly _ _
  | sknp x =>
    obtain ⟨_, rfl⟩ := exec_sknp_next h
    exact skipIf_writesOnly _ _
  | jp | jpV0 =>
    obtain rfl := Host.Outcome.next.inj h
    exact setPc_writesOnly _ _
  | ret =>
    obtain ⟨_, rfl⟩ := exec_ret_next h
    exact (setPc_writesOnly s _).append (setStack_writesOnly _ _ _)
  | call nnn =>
    obtain ⟨_, rfl⟩ := exec_call_next h
    exact (setPc_writesOnly s _).append (setStack_writesOnly _ _ _)
  | ldVxK x =>
    obtain rfl := Host.Outcome.next.inj h
    exact (setLatch_writesOnly s _).append (setPc_writesOnly _ _)
  | cls =>
    obtain rfl := Host.Outcome.next.inj h
    exact (setFb_writesOnly s _).append (setFbChanged_writesOnly _ _)
  | drw x y n =>
    obtain ⟨-, rfl⟩ := exec_drw_next h
    exact (setRegs_writesOnly s _).append ((setFb_writesOnly _ _).append (setFbChanged_writesOnly _ true))
  | ldI | addI | ldF =>
    obtain rfl := Host.Outcome.next.inj h
    exact setIdx_writesOnly _ _
  | ldDtVx x =>
    obtain rfl := Host.Outcome.next.inj h
    exact setDt_writesOnly _ _
  | ldStVx x =>
    obtain rfl := Host.Outcome.next.inj h
    exact setSt_writesOnly _ _
  | ldB x =>
    obtain ⟨-, rfl⟩ := exec_ldB_next h
    exact setMem_writesOnly _ _
  | storeRegs x =>
    obtain ⟨-, rfl⟩ := exec_storeRegs_next h
    exact setMem_writesOnly _ _

/-- Settles O15: the frame on the data of the state is one on what is read of it. -/
theorem instructionsChangeOnlyTheirParts : Obligations.InstructionsChangeOnlyTheirParts :=
  fun _ _ _ h => (exec_writesOnly h).changesOnly

/-! ### The writers of the timers and of the latch -/

/-- Only set-delay-timer writes the delay timer. -/
theorem exec_dt {i : Instr} {s t : State} (h : exec i s = .next t) :
    t.dt = s.dt ∨ ∃ x, i = .ldDtVx x ∧ t.dt = s.reg x := by
  cases i with
  | ldDtVx x =>
    obtain rfl := Host.Outcome.next.inj h
    exact .inr ⟨x, rfl, rfl⟩
  | _ => exact .inl (exec_writesOnly h .dt (by simp [mayChange]))

/-- Only set-sound-timer writes the sound timer. -/
theorem exec_st {i : Instr} {s t : State} (h : exec i s = .next t) :
    t.st = s.st ∨ ∃ x, i = .ldStVx x ∧ t.st = s.reg x := by
  cases i with
  | ldStVx x =>
    obtain rfl := Host.Outcome.next.inj h
    exact .inr ⟨x, rfl, rfl⟩
  | _ => exact .inl (exec_writesOnly h .st (by simp [mayChange]))

/-- Only wait-for-key writes the latch: it sets it, and `pc` goes back to the instruction (46_keypad.md R183). -/
theorem exec_latch {i : Instr} {s t : State} (h : exec i s = .next t) :
    t.latch = s.latch ∨ ∃ x, i = .ldVxK x ∧ t.latch = .waiting x ∧ t.pc = s.pc - 2 := by
  cases i with
  | ldVxK x =>
    obtain rfl := Host.Outcome.next.inj h
    exact .inr ⟨x, rfl, rfl, rfl⟩
  | _ => exact .inl (exec_writesOnly h .latch (by simp [mayChange]))

end Sys2Proof.Machine
end

section
/-! PROOFS. The Step operation and the sessions of the host, case by case. -/

namespace Sys2Proof.Machine

/-- What a Step reports of its handler's outcome, and the state it leaves; `begun` is the state the handler began with. -/
def stepReport (begun : State) : Result → Except Refusal (StepResult × State)
  | .next t => .ok (.executed, t)
  | .fault e => .ok (.fatal e, faultState begun)
  | .refused r => .error r

/-- The host's interface gives a handler's outcome back as it was. -/
theorem stepOutcome_stepReport (begun : State) (r : Result) : stepOutcome (stepReport begun r) = r := by
  cases r <;> rfl

theorem stepOp_of_waiting {s : State} {r : RegIdx} (hl : s.latch = .waiting r) : stepOp s = .ok (.blocked, s) := by
  simp only [stepOp, hl]

theorem stepOp_of_fetch_outside {s : State} (hl : s.latch = .notWaiting) (hp : 4095 ≤ s.pc.toNat) :
    stepOp s = .ok (.fatal (.fetchOutOfRange s.pc), s) := by
  simp only [stepOp, hl, fetch_of_outside s hp]

theorem stepOp_of_unknown {s : State} (hl : s.latch = .notWaiting) (hp : s.pc.toNat ≤ 4094)
    (hd : decodeWord (s.word s.pc.toNat) = none) : stepOp s = .ok (.unknown (s.word s.pc.toNat), s.advance) := by
  simp only [stepOp, hl, fetch_of_inside s hp, hd]

theorem stepOp_of_fetches {s : State} {i : Instr} (hf : Fetches s i) :
    stepOp s = stepReport s.advance (exec i s.advance) := by
  have ⟨hl, hp, _⟩ := hf
  simp only [stepOp, hl, fetch_of_inside s hp, hf.decodeWord_eq]
  cases exec i s.advance <;> rfl

theorem step_of_fetches {s : State} {i : Instr} (hf : Fetches s i) : step s = exec i s.advance := by
  rw [step, stepOp_of_fetches hf, stepOutcome_stepReport]

/-- The four kinds of state a Step can begin in. -/
theorem fetch_cases (s : State) :
    (∃ r, s.latch = .waiting r) ∨ (s.latch = .notWaiting ∧ 4095 ≤ s.pc.toNat) ∨
    (s.latch = .notWaiting ∧ s.pc.toNat ≤ 4094 ∧ decodeWord (s.word s.pc.toNat) = none) ∨ ∃ i, Fetches s i := by
  cases hl : s.latch with
  | waiting r => exact .inl ⟨r, rfl⟩
  | notWaiting =>
    by_cases hp : s.pc.toNat ≤ 4094
    · cases hd : decodeWord (s.word s.pc.toNat) with
      | none => exact .inr (.inr (.inl ⟨rfl, hp, rfl⟩))
      | some i => exact .inr (.inr (.inr ⟨i, hl, hp, decode_eq_ok.mpr ⟨hd, rfl⟩⟩))
    · exact .inr (.inl ⟨rfl, by omega⟩)

/-- The state a Step leaves, whatever it reports: unchanged, with `pc` advanced over a fetched word, or the next state of the
fetched instruction. -/
theorem stepOp_eq_ok {s t : State} {q : StepResult} (h : stepOp s = .ok (q, t)) :
    t = s ∨ (s.latch = .notWaiting ∧ s.pc.toNat ≤ 4094 ∧ t = s.advance) ∨
    ∃ i, Fetches s i ∧ exec i s.advance = .next t := by
  obtain ⟨r, hl⟩ | ⟨hl, hp⟩ | ⟨hl, hp, hd⟩ | ⟨i, hf⟩ := fetch_cases s
  · rw [stepOp_of_waiting hl] at h
    cases h
    exact .inl rfl
  · rw [stepOp_of_fetch_outside hl hp] at h
    cases h
    exact .inl rfl
  · rw [stepOp_of_unknown hl hp hd] at h
    cases h
    exact .inr (.inl ⟨hl, hp, rfl⟩)
  · rw [stepOp_of_fetches hf] at h
    cases hx : exec i s.advance with
    | next u =>
      rw [hx] at h
      cases h
      exact .inr (.inr ⟨i, hf, hx⟩)
    | fault e =>
      rw [hx] at h
      cases h
      obtain ⟨hl, hp, -⟩ := hf
      exact .inr (.inl ⟨hl, hp, rfl⟩)
    | refused r =>
      rw [hx] at h
      cases h

/-- A next state of a Step is the state its report comes with. -/
theorem stepOp_of_step_eq_next {s t : State} (h : step s = .next t) : ∃ q, stepOp s = .ok (q, t) := by
  unfold step at h
  cases ho : stepOp s with
  | error r =>
    rw [ho] at h
    cases h
  | ok p =>
    obtain ⟨q, u⟩ := p
    rw [ho] at h
    cases q with
    | fatal e => cases h
    | executed | blocked | unknown =>
      cases h
      exact ⟨_, rfl⟩

/-! ### The sessions of the host -/

@[simp] theorem sessionState_withState (m : Session) (s : State) : sessionState (withState m s) = s := by
  cases m <;> rfl

/-- A requested Step that has a result ran in a running session, and the session holds the state the Step left. -/
theorem stepSession_eq_next {m m' : Session} {r : OpResult} (h : stepSession m = .next (r, m')) :
    ∃ s q, m = .running s ∧ stepOp s = .ok (q, sessionState m') := by
  cases m with
  | faulted e s => cases h
  | running s =>
    unfold stepSession at h
    cases ho : stepOp s with
    | error e =>
      simp only [ho] at h
      cases h
    | ok p =>
      obtain ⟨q, t⟩ := p
      simp only [ho] at h
      cases q <;> cases h <;> exact ⟨s, _, rfl, ho⟩

/-- A requested LoadProgram leaves the state as it was, or the loaded one. -/
theorem hostOp_loadProgram_state {b : List Byte} {m m' : Session} {r : OpResult}
    (h : hostOp (.loadProgram b) m = .next (r, m')) :
    sessionState m' = sessionState m ∨ loadProgram b (sessionState m) = .ok (sessionState m') := by
  have hload : loadSession b m = (r, m') := Host.Outcome.next.inj h
  unfold loadSession at hload
  cases hp : loadProgram b (sessionState m) with
  | error e =>
    rw [hp] at hload
    cases hload
    exact .inl rfl
  | ok t =>
    rw [hp] at hload
    cases hload
    exact .inr (by rw [sessionState_withState])

end Sys2Proof.Machine
end

section
/-! PROOFS. The invariant: canonical memory, bounds on `pc` and on the stack entries. -/

namespace Sys2Proof.Machine

/-- The invariant speaks of memory, `pc`, the stack and the latch alone. -/
theorem State.Inv.of_eq {s t : State} (h : s.Inv) (hm : t.mem = s.mem) (hp : t.pc = s.pc) (hs : t.stack = s.stack)
    (hl : t.latch = s.latch) : t.Inv where
  memory := hm ▸ h.memory
  pcBound := hp ▸ h.pcBound
  entries := hs ▸ h.entries
  waiting := hp ▸ hl ▸ h.waiting

/-- What holds of the state a handler begins with: the invariant, the latch free, and `pc` past a fetched instruction. -/
structure State.Begun (s : State) : Prop where
  inv : s.Inv
  free : s.latch = .notWaiting
  pcLow : 2 ≤ s.pc.toNat
  pcHigh : s.pc.toNat ≤ 4096

theorem advance_pc_toNat {s : State} (h : s.pc.toNat ≤ 4096) : s.advance.pc.toNat = s.pc.toNat + 2 := by
  rw [State.advance_pc]
  bv_omega

theorem State.Inv.advance_begun {s : State} (h : s.Inv) (hl : s.latch = .notWaiting) (hp : s.pc.toNat ≤ 4094) :
    s.advance.Begun := by
  have hpc := advance_pc_toNat (s := s) (by omega)
  exact ⟨⟨h.memory, by omega, h.entries, fun hw => absurd hl hw⟩, hl, by omega, by omega⟩

/-- Memory stays canonical: only the two stores write it, at addresses they have checked. -/
theorem exec_keeps_memory_wf {i : Instr} {s t : State} (hm : Memory.wf s.mem) (h : exec i s = .next t) :
    Memory.wf t.mem := by
  cases i with
  | ldB x =>
    obtain ⟨inside, rfl⟩ := exec_ldB_next h
    exact Memory.writeList_wf hm inside
  | storeRegs x =>
    obtain ⟨inside, rfl⟩ := exec_storeRegs_next h
    exact Memory.writeList_wf hm (by rwa [regList_length])
  | _ =>
    have hmem : t.mem = s.mem := exec_writesOnly h .mem (by simp [mayChange])
    rwa [hmem]

/-- The stack entries stay bounded: only call writes one, and it writes its own `pc`. -/
theorem exec_keeps_entries {i : Instr} {s t : State} (hs : s.Begun) (h : exec i s = .next t) (j : Fin 16) :
    (t.stack[j]).toNat ≤ 4096 := by
  cases i with
  | call nnn =>
    obtain ⟨_, rfl⟩ := exec_call_next h
    simp only [State.setPc_stack, State.setStack_stack, Fin.getElem_fin, Vector.getElem_set]
    split
    · exact hs.pcHigh
    · exact hs.inv.entries j
  | ret =>
    obtain ⟨_, rfl⟩ := exec_ret_next h
    exact hs.inv.entries j
  | _ =>
    have ⟨_, hstack⟩ : t.sp = s.sp ∧ t.stack = s.stack := exec_writesOnly h .stack (by simp [mayChange])
    rw [hstack]
    exact hs.inv.entries j

theorem skipIf_pc_le {s : State} (h : s.pc.toNat ≤ 4096) (b : Bool) : (s.skipIf b).pc.toNat ≤ 0x10FE := by
  cases b
  · exact h.trans (by decide)
  · exact (advance_pc_toNat h).trans_le (by omega)

/-- `pc` stays bounded: a jump goes to at most 0xFFF + 0xFF, and a return to an entry (10_state.md R25). -/
theorem exec_pc_le {i : Instr} {s t : State} (hs : s.Begun) (h : exec i s = .next t) : t.pc.toNat ≤ 0x10FE := by
  have hp := hs.pcHigh
  cases i with
  | jp nnn =>
    obtain rfl := Host.Outcome.next.inj h
    simp only [State.setPc_pc]
    bv_omega
  | call nnn =>
    obtain ⟨_, rfl⟩ := exec_call_next h
    simp only [State.setPc_pc]
    bv_omega
  | jpV0 nnn =>
    obtain rfl := Host.Outcome.next.inj h
    simp only [State.setPc_pc]
    bv_omega
  | ret =>
    obtain ⟨entry, rfl⟩ := exec_ret_next h
    exact (hs.inv.entries ⟨s.sp.val - 1, by omega⟩).trans (by decide)
  | ldVxK x =>
    obtain rfl := Host.Outcome.next.inj h
    have hlow := hs.pcLow
    simp only [State.setPc_pc]
    bv_omega
  | seImm | sneImm | seReg | sneReg =>
    obtain rfl := Host.Outcome.next.inj h
    exact skipIf_pc_le hp _
  | skp x =>
    obtain ⟨_, rfl⟩ := exec_skp_next h
    exact skipIf_pc_le hp _
  | sknp x =>
    obtain ⟨_, rfl⟩ := exec_sknp_next h
    exact skipIf_pc_le hp _
  | _ =>
    have hpc : t.pc = s.pc := exec_writesOnly h .pc (by simp [mayChange])
    rw [hpc]
    omega

/-- Every instruction that completes leaves the invariant. -/
theorem exec_keeps_inv {i : Instr} {s t : State} (hs : s.Begun) (h : exec i s = .next t) : t.Inv where
  memory := exec_keeps_memory_wf hs.inv.memory h
  pcBound := exec_pc_le hs h
  entries := exec_keeps_entries hs h
  waiting hw := by
    obtain hl | ⟨x, -, -, hpc⟩ := exec_latch h
    · exact absurd (hl.trans hs.free) hw
    · have hlow := hs.pcLow
      have hhigh := hs.pcHigh
      rw [hpc]
      bv_omega

/-- The Step operation keeps the invariant, fatal Steps included. -/
theorem stepOp_keeps_inv {s t : State} {q : StepResult} (hs : s.Inv) (h : stepOp s = .ok (q, t)) : t.Inv := by
  obtain rfl | ⟨hl, hp, rfl⟩ | ⟨i, ⟨hl, hp, -⟩, hx⟩ := stepOp_eq_ok h
  · exact hs
  · exact (hs.advance_begun hl hp).inv
  · exact exec_keeps_inv (hs.advance_begun hl hp) hx

/-- Settles O58: the Step operation keeps the invariant whatever it reports. -/
theorem stepKeepsTheInvariant : Obligations.StepKeepsTheInvariant := by
  intro s t hs h
  obtain ⟨q, hq⟩ := stepOp_of_step_eq_next h
  exact stepOp_keeps_inv hs hq

/-! ### The host's operations -/

/-- Settles O59, with `Memory.reset_wf` for the memory. -/
theorem resetMeetsTheInvariant : Obligations.ResetMeetsTheInvariant where
  memory := Memory.reset_wf
  pcBound := by decide
  entries := by decide
  waiting := by decide

theorem keyEvent_keeps_inv {s : State} (hs : s.Inv) (k : KeyIdx) (e : KeyTransition) : (keyEvent k e s).Inv := by
  cases e with
  | released => exact hs.of_eq rfl rfl rfl rfl
  | pressed =>
    cases hl : s.latch with
    | notWaiting =>
      rw [keyEvent_pressed_free k hl]
      exact hs.of_eq rfl rfl rfl rfl
    | waiting r =>
      have hp : s.pc.toNat ≤ 4094 := hs.waiting (by simp [hl])
      rw [keyEvent_pressed_waiting k hl]
      have hpc : s.advance.pc.toNat ≤ 0x10FE := (advance_pc_toNat (s := s) (by omega)).trans_le (by omega)
      exact ⟨hs.memory, hpc, hs.entries, fun hw => absurd rfl hw⟩

theorem loadProgram_keeps_inv {b : List Byte} {s t : State} (hs : s.Inv) (h : loadProgram b s = .ok t) : t.Inv := by
  obtain ⟨hlen, rfl⟩ := loadProgram_eq_ok h
  have hfit : loadBase + b.length ≤ memSize := by simp only [maxProgram, memSize, loadBase] at *; omega
  exact ⟨Memory.writeList_wf hs.memory hfit, hs.pcBound, hs.entries, hs.waiting⟩

/-- Settles O60, operation by operation; a Step is `stepOp_keeps_inv`. -/
theorem everyOperationKeepsTheInvariant : Obligations.EveryOperationKeepsTheInvariant := by
  intro op m m' r hs h
  cases op with
  | step =>
    obtain ⟨s, q, rfl, hq⟩ := stepSession_eq_next h
    exact stepOp_keeps_inv hs hq
  | keyEvent k e =>
    cases h
    rw [sessionState_withState]
    exact keyEvent_keeps_inv hs k e
  | timerTick | ackFrame =>
    cases h
    rw [sessionState_withState]
    exact hs.of_eq rfl rfl rfl rfl
  | reset =>
    cases h
    exact resetMeetsTheInvariant.of_eq rfl rfl rfl rfl
  | loadProgram b =>
    obtain hsame | hload := hostOp_loadProgram_state h
    · exact hsame ▸ hs
    · exact loadProgram_keeps_inv hs hload
  | frameRead | soundRead =>
    cases h
    exact hs

end Sys2Proof.Machine
end

section
/-! PROOFS. Registers, the stack, the timers, the latch and the keys: who writes them, and what Reset leaves. -/

namespace Sys2Proof.Machine

/-! ### Registers and the stack -/

/-- Settles O16: the frame where an instruction writes no register, and the register it wrote, read back, where it does. -/
theorem instructionsKeepEveryOtherRegister : Obligations.InstructionsKeepEveryOtherRegister := by
  intro i s t r h hr
  cases i with
  | ldImm | addImm | ldReg | orReg | andReg | xorReg | rnd | ldVxDt =>
    obtain rfl := Host.Outcome.next.inj h
    simp only [writesReg, beq_eq_false_iff_ne] at hr
    simp [hr]
  | addReg | subReg | subnReg | shr | shl =>
    obtain rfl := Host.Outcome.next.inj h
    simp only [writesReg, Bool.or_eq_false_iff, beq_eq_false_iff_ne] at hr
    simp [hr, shiftRight, shiftLeft]
  | drw x y n =>
    obtain ⟨-, rfl⟩ := exec_drw_next h
    rw [drawAt, State.setFlag_reg, if_neg (by simpa [writesReg] using hr)]
    rfl
  | loadRegs x =>
    obtain ⟨-, rfl⟩ := exec_loadRegs_next h
    rw [State.setRegs_reg, loadedRegs_getElem, if_neg (by simpa [writesReg] using hr)]
  | _ => exact instructionsChangeOnlyTheirParts _ s t h .regs (by simp [mayChange]) r

/-- Settles O18: what each of them leaves in the flag register is `flagByte` of its flag. -/
theorem flagWritersLeaveZeroOrOne : Obligations.FlagWritersLeaveZeroOrOne := by
  intro i s t h hi
  cases i with
  | addReg | subReg | subnReg =>
    obtain rfl := Host.Outcome.next.inj h
    rw [State.writeResultFlag_reg, if_pos rfl]
    exact flagByte_zero_or_one _
  | shr x | shl x =>
    obtain rfl := Host.Outcome.next.inj h
    have hx : flagReg ≠ x := fun hx => by simp [leavesFlag, hx] at hi
    simp only [shiftRight, shiftLeft, State.writeFlagResult_reg, if_neg hx, ite_true]
    exact flagByte_zero_or_one _
  | drw x y n =>
    obtain ⟨-, rfl⟩ := exec_drw_next h
    rw [drawAt, State.setFlag_reg, if_pos rfl]
    exact flagByte_zero_or_one _
  | _ => cases hi

/-- Settles O19: call writes the entry at the old stack pointer, return writes none, and no other instruction touches the
stack. -/
theorem stackEntriesInUseSurvive : Obligations.StackEntriesInUseSurvive := by
  intro i s t h
  cases i with
  | call nnn =>
    obtain ⟨room, rfl⟩ := exec_call_next h
    simp only [State.setPc_sp, State.setStack_sp]
    exact ⟨fun j hj _ => Vector.getElem_set_ne room j.isLt (by omega), by omega, by omega⟩
  | ret =>
    obtain ⟨_, rfl⟩ := exec_ret_next h
    simp only [State.setPc_sp, State.setStack_sp]
    exact ⟨fun _ _ _ => rfl, by omega, by omega⟩
  | _ =>
    obtain ⟨hsp, hstack⟩ := instructionsChangeOnlyTheirParts _ s t h .stack (by simp [mayChange])
    rw [hsp]
    exact ⟨fun j _ _ => hstack j, by omega, by omega⟩

/-! ### The timers -/

/-- Settles O38: a Step that runs no instruction leaves the timers, and one that does is `exec_dt` and `exec_st`. -/
theorem stepNeverTicksTheTimers : Obligations.StepNeverTicksTheTimers := by
  intro s t h
  obtain ⟨-, rfl⟩ | ⟨-, -, -, rfl⟩ | ⟨i, hf, hx⟩ := step_eq_next h
  · exact ⟨.inl rfl, .inl rfl⟩
  · exact ⟨.inl rfl, .inl rfl⟩
  · constructor
    · exact (exec_dt hx).imp_right fun ⟨x, hi, hdt⟩ => ⟨x, hi ▸ hf, hdt⟩
    · exact (exec_st hx).imp_right fun ⟨x, hi, hst⟩ => ⟨x, hi ▸ hf, hst⟩

theorem tickDown_toNat (t : Byte) : (tickDown t).toNat = t.toNat - 1 := by
  unfold tickDown
  split
  · simp [*]
  · bv_omega

theorem timerTick_changesOnly (s : State) : ChangesOnly [.dt, .st] s (timerTick s) :=
  ((setDt_writesOnly s _).append (setSt_writesOnly _ _)).changesOnly

/-- One tick more may be made last as well as first. -/
theorem timerTick_ticks (n : Nat) (s : State) : timerTick (ticks n s) = ticks (n + 1) s := by
  induction n generalizing s with
  | zero => rfl
  | succ n ih => exact ih (timerTick s)

theorem ticks_spec (n : Nat) (s : State) :
    (ticks n s).dt.toNat = s.dt.toNat - n ∧ (ticks n s).st.toNat = s.st.toNat - n ∧
      ChangesOnly [.dt, .st] s (ticks n s) := by
  induction n generalizing s with
  | zero => exact ⟨rfl, rfl, ChangesOnly.refl _ _⟩
  | succ n ih =>
    obtain ⟨hdt, hst, hframe⟩ := ih (timerTick s)
    have hdt' : (timerTick s).dt.toNat = s.dt.toNat - 1 := tickDown_toNat s.dt
    have hst' : (timerTick s).st.toNat = s.st.toNat - 1 := tickDown_toNat s.st
    exact ⟨hdt.trans (by omega), hst.trans (by omega), (timerTick_changesOnly s).trans hframe⟩

/-- Settles O39, by induction on the number of ticks; the operation TimerTick is the last of them. -/
theorem ticksCountBothTimersDownToZero : Obligations.TicksCountBothTimersDownToZero := by
  intro n s
  obtain ⟨hdt, hst, hframe⟩ := ticks_spec n s
  rw [← timerTick_ticks]
  exact ⟨hdt, hst, hframe, rfl, fun _ => rfl⟩

/-! ### The latch and the keys -/

/-- Settles O50: `exec_latch` for the Step that sets it, and the host's operations one by one for the one that frees it. -/
theorem latchIsSetAndReleasedOnlyAsSaid : Obligations.LatchIsSetAndReleasedOnlyAsSaid := by
  constructor
  · intro s t x hl h hx
    obtain ⟨hw, -⟩ | ⟨-, -, -, rfl⟩ | ⟨i, hf, he⟩ := step_eq_next h
    · exact absurd hl hw
    · exact absurd (hl.symm.trans hx) (by simp)
    · obtain hkeep | ⟨y, rfl, hy, -⟩ := exec_latch he
      · exact absurd (hl.symm.trans (hkeep.symm.trans hx)) (by simp)
      · obtain rfl : y = x := Latch.waiting.inj (hy.symm.trans hx)
        exact hf
  · intro s op r m hw h
    cases op with
    | step =>
      obtain ⟨_, q, hrun, hq⟩ := stepSession_eq_next (m := .running s) h
      obtain rfl := Session.running.inj hrun
      obtain hsame | ⟨hl, -⟩ | ⟨_, ⟨hl, -⟩, -⟩ := stepOp_eq_ok hq
      · exact .inl (congrArg State.latch hsame)
      · exact absurd hl hw
      · exact absurd hl hw
    | keyEvent k e =>
      cases e with
      | pressed => exact .inr (.inr ⟨k, rfl⟩)
      | released =>
        cases h
        exact .inl rfl
    | reset => exact .inr (.inl rfl)
    | loadProgram b =>
      obtain hsame | hload := hostOp_loadProgram_state h
      · exact .inl (congrArg State.latch hsame)
      · obtain ⟨-, hm⟩ := loadProgram_eq_ok hload
        exact .inl (by rw [hm]; rfl)
    | timerTick | frameRead | ackFrame | soundRead =>
      cases h
      exact .inl rfl

/-- Settles O51: an event that resolves no wait is one write of its key. -/
theorem keyEventsSetTheirKeyOnly : Obligations.KeyEventsSetTheirKeyOnly := by
  intro k s
  refine ⟨State.setKey_key s k false, (setKey_writesOnly s k false).changesOnly, rfl, fun _ => rfl, fun hl => ?_⟩
  have hpress := keyEvent_pressed_free k hl
  refine ⟨?_, ?_, rfl, fun _ => rfl⟩
  · rw [hpress]
    exact State.setKey_key s k true
  · rw [hpress]
    exact (setKey_writesOnly s k true).changesOnly

/-! ### Reset -/

/-- Settles O55: the reset state, field by field. -/
theorem resetLeavesTheResetState : Obligations.ResetLeavesTheResetState := by
  intro s
  refine ⟨rfl, fun r => ?_, rfl, rfl, rfl, fun j => ?_, rfl, rfl, memReset_glyph, fun a => memReset_of_le, fun r c => ?_,
    rfl, fun k => ?_, rfl⟩
  all_goals simp [resetOp, State.reset, State.reg, State.cell, State.key]

end Sys2Proof.Machine
end

section
/-! PROOFS. The sound timer and the "changed" flag are read by no Step. -/

namespace Sys2Proof.Machine

/-- The state with the two parts written that no Step reads. -/
def State.setUnread (s : State) (v : Byte) (b : Bool) : State := (s.setSt v).setFbChanged b

theorem loadedRegs_setUnread (x : RegIdx) (base : Nat) (s : State) (v : Byte) (b : Bool) :
    loadedRegs x base (s.setUnread v b) = loadedRegs x base s := rfl

/-- A key query ends two like outcomes alike. -/
theorem withKey_same {ps : List Part} {x : RegIdx} {s s' : State} {k k' : KeyIdx → Result} (hx : s'.reg x = s.reg x)
    (h : ∀ q, SameOutcome ps (k q) (k' q)) : SameOutcome ps (withKey x s k) (withKey x s' k') := by
  simp only [withKey, hx]
  split
  · exact h _
  · rfl

section
variable {ps : List Part} {s : State} {v : Byte} {b : Bool}

/-- Of the two parts, those not listed are written with what they hold. -/
theorem setUnread_changesOnly (hv : .st ∉ ps → v = s.st) (hb : .fbChanged ∉ ps → b = s.fbChanged) :
    ChangesOnly ps s (s.setUnread v b) := fun p hp => by
  cases p with
  | st => exact hv hp
  | fbChanged => exact hb hp
  | _ => exact KeepsField.keeps (by simp [KeepsField, State.setUnread])

theorem setRegs_setUnread_changesOnly (r : Vector Byte 16) (hv : .st ∉ ps → v = s.st)
    (hb : .fbChanged ∉ ps → b = s.fbChanged) : ChangesOnly ps (s.setRegs r) ((s.setUnread v b).setRegs r) :=
  setUnread_changesOnly (s := s.setRegs r) hv hb

theorem skipIf_setUnread_changesOnly (c : Bool) (hv : .st ∉ ps → v = s.st) (hb : .fbChanged ∉ ps → b = s.fbChanged) :
    ChangesOnly ps (s.skipIf c) ((s.setUnread v b).skipIf c) := by
  cases c
  · exact setUnread_changesOnly (s := s) hv hb
  · exact setUnread_changesOnly (s := s.advance) hv hb

/-- An instruction run with other values in the two parts ends alike. -/
theorem exec_setUnread_same (i : Instr) (hv : .st ∉ ps → v = s.st) (hb : .fbChanged ∉ ps → b = s.fbChanged) :
    SameOutcome ps (exec i s) (exec i (s.setUnread v b)) := by
  cases i with
  | ldImm | addImm | ldReg | orReg | andReg | xorReg | addReg | subReg | shr | subnReg | shl | rnd | jp | jpV0 | ldI | addI
  | ldF | ldVxDt | ldDtVx | ldVxK => exact setUnread_changesOnly (s := _) hv hb
  | ldStVx x => exact setUnread_changesOnly (s := s.setSt (s.reg x)) (fun _ => rfl) hb
  | cls => exact setUnread_changesOnly (s := (s.setFb blankFb).setFbChanged true) hv (fun _ => rfl)
  | seImm | sneImm | seReg | sneReg => exact skipIf_setUnread_changesOnly _ hv hb
  | skp x =>
    rw [exec_skp, exec_skp]
    exact withKey_same rfl fun _ => skipIf_setUnread_changesOnly _ hv hb
  | sknp x =>
    rw [exec_sknp, exec_sknp]
    exact withKey_same rfl fun _ => skipIf_setUnread_changesOnly _ hv hb
  | ret =>
    by_cases entry : 0 < s.sp.val
    · rw [exec_ret, exec_ret, pop_of_entry s _ entry, pop_of_entry (s.setUnread v b) _ entry]
      exact setUnread_changesOnly (s := (s.setStack _ _).setPc _) hv hb
    · rw [exec_ret, exec_ret, pop_of_empty s _ entry, pop_of_empty (s.setUnread v b) _ entry]
      rfl
  | call nnn =>
    by_cases room : s.sp.val < stackDepth
    · rw [exec_call, exec_call, push_of_room s _ _ room, push_of_room (s.setUnread v b) _ _ room]
      exact setUnread_changesOnly (s := (s.setStack _ _).setPc _) hv hb
    · rw [exec_call, exec_call, push_of_full s _ _ room, push_of_full (s.setUnread v b) _ _ room]
      rfl
  | drw x y n => exact guardRange_same (setUnread_changesOnly (s := drawAt x y _ s) hv (fun _ => rfl))
  | ldB x => exact guardRange_same (setUnread_changesOnly (s := s.setMem _) hv hb)
  | storeRegs x => exact guardRange_same (setUnread_changesOnly (s := s.setMem _) hv hb)
  | loadRegs x =>
    rw [exec_loadRegs, exec_loadRegs, loadedRegs_setUnread]
    exact guardRange_same (setRegs_setUnread_changesOnly _ hv hb)

/-- A Step with other values in the two parts ends alike. -/
theorem step_setUnread_same (hv : .st ∉ ps → v = s.st) (hb : .fbChanged ∉ ps → b = s.fbChanged) :
    SameOutcome ps (step s) (step (s.setUnread v b)) := by
  obtain ⟨r, hl⟩ | ⟨hl, hp⟩ | ⟨hl, hp, hd⟩ | ⟨i, hf⟩ := fetch_cases s
  · rw [step, step, stepOp_of_waiting hl, stepOp_of_waiting (s := s.setUnread v b) hl]
    exact setUnread_changesOnly (s := s) hv hb
  · rw [step, step, stepOp_of_fetch_outside hl hp, stepOp_of_fetch_outside (s := s.setUnread v b) hl hp]
    rfl
  · rw [step, step, stepOp_of_unknown hl hp hd, stepOp_of_unknown (s := s.setUnread v b) hl hp hd]
    exact setUnread_changesOnly (s := s.advance) hv hb
  · rw [step_of_fetches hf, step_of_fetches (s := s.setUnread v b) hf]
    exact exec_setUnread_same (s := s.advance) i hv hb

end

/-- Settles O20: one of the two parts written anew, the other with what it holds. -/
theorem soundTimerAndChangedFlagAreNeverRead : Obligations.SoundTimerAndChangedFlagAreNeverRead := by
  intro s
  constructor
  · intro v
    exact step_setUnread_same (v := v) (b := s.fbChanged) (by simp) (fun _ => rfl)
  · intro b
    exact step_setUnread_same (v := s.st) (b := b) (fun _ => rfl) (by simp)

end Sys2Proof.Machine
end

section
/-! PROOFS. Memory: who stores to a byte, and the fetch of a stored instruction. -/

namespace Sys2Proof.Machine

/-- A store of a list of bytes leaves the bytes outside its block. -/
theorem setMem_writeList_byte_of_outside (s : State) {a b : Nat} {bs : List Byte} (h : ¬ (a ≤ b ∧ b < a + bs.length)) :
    (s.setMem (Memory.writeList s.mem a bs)).byte b = s.byte b := by
  rw [setMem_writeList_byte, dif_neg h]

/-- Settles O17: the two stores write their block and nothing else; the frame of every other instruction holds memory. -/
theorem instructionsKeepEveryOtherByte : Obligations.InstructionsKeepEveryOtherByte := by
  intro i s t a h ha
  cases i with
  | ldB x =>
    obtain ⟨-, rfl⟩ := exec_ldB_next h
    exact setMem_writeList_byte_of_outside s (by rwa [bcdDigits_length])
  | storeRegs x =>
    obtain ⟨-, rfl⟩ := exec_storeRegs_next h
    exact setMem_writeList_byte_of_outside s (by rwa [regList_length])
  | _ => exact instructionsChangeOnlyTheirParts _ s t h .mem (by simp [mayChange]) a

/-- store-registers leaves register `r` at `I + r`, for each `r` up to its operand (44_index_and_memory.md R155). -/
theorem exec_storeRegs_byte {x r : RegIdx} {s t : State} (h : exec (.storeRegs x) s = .next t) (hr : r ≤ x) :
    t.byte (s.idx.toNat + r.val) = s.reg r := by
  obtain ⟨-, rfl⟩ := exec_storeRegs_next h
  rw [Fin.le_def] at hr
  rw [setMem_writeList_byte, dif_pos (by rw [regList_length]; omega)]
  simp

/-- Settles O35: the block lies inside memory, so the sum that is the new `pc` does not wrap and the fetch there reads the
bytes of the two neighbouring registers. -/
theorem storedBytesAreFetchedAsInstructions : Obligations.StoredBytesAreFetchedAsInstructions := by
  intro x s t h j k hk hkx
  obtain ⟨inside, -⟩ := exec_storeRegs_next h
  have hkv : k.val ≤ x.val := hkx
  simp only [memSize] at inside
  have hpc : (s.idx + BitVec.ofNat 16 j.val).toNat = s.idx.toNat + j.val := by
    rw [BitVec.toNat_add, BitVec.toNat_ofNat]
    omega
  have high : t.byte (s.idx.toNat + j.val) = s.reg j := exec_storeRegs_byte h (Fin.le_def.mpr (by omega))
  have low : t.byte (s.idx.toNat + j.val + 1) = s.reg k := by
    rw [Nat.add_assoc, ← hk, exec_storeRegs_byte h hkx]
  rw [fetch_of_inside _ (by rw [State.setPc_pc, hpc]; omega), State.word, State.setPc_pc, hpc, State.setPc_byte,
    State.setPc_byte, high, low]

end Sys2Proof.Machine
end

section
/-! PROOFS. Encoding: a word is its fields, the decoder is the opcode map, and decoding undoes encoding. -/

namespace Sys2Proof.Machine

/-! ### A word is its fields -/

@[simp] theorem fieldClass_toNat (w : Word) : (fieldClass w).toNat = w.toNat / 4096 := by
  simp only [fieldClass, BitVec.extractLsb'_toNat, Nat.shiftRight_eq_div_pow]
  omega

@[simp] theorem fieldX_val (w : Word) : (fieldX w).val = w.toNat / 256 % 16 := by
  simp [fieldX, Nat.shiftRight_eq_div_pow]

@[simp] theorem fieldY_val (w : Word) : (fieldY w).val = w.toNat / 16 % 16 := by
  simp [fieldY, Nat.shiftRight_eq_div_pow]

@[simp] theorem fieldN_toNat (w : Word) : (fieldN w).toNat = w.toNat % 16 := by simp [fieldN]

@[simp] theorem fieldNN_toNat (w : Word) : (fieldNN w).toNat = w.toNat % 256 := by simp [fieldNN]

@[simp] theorem fieldNNN_toNat (w : Word) : (fieldNNN w).toNat = w.toNat % 4096 := by simp [fieldNNN]

/-- Settles O2: each field is a quotient and a remainder of the word's number. -/
theorem fieldsReassembleTheWord : Obligations.FieldsReassembleTheWord := by
  intro w
  simp only [fieldClass_toNat, fieldX_val, fieldY_val, fieldN_toNat, fieldNN_toNat, fieldNNN_toNat]
  omega

theorem word_eq_iff_NNN {v w : Word} : v = w ↔ fieldClass v = fieldClass w ∧ fieldNNN v = fieldNNN w := by
  refine ⟨fun h => h ▸ ⟨rfl, rfl⟩, fun ⟨hc, hn⟩ => BitVec.eq_of_toNat_eq ?_⟩
  rw [← (fieldsReassembleTheWord v).2.2, hc, hn, (fieldsReassembleTheWord w).2.2]

theorem word_eq_iff_XNN {v w : Word} :
    v = w ↔ fieldClass v = fieldClass w ∧ fieldX v = fieldX w ∧ fieldNN v = fieldNN w := by
  refine ⟨fun h => h ▸ ⟨rfl, rfl, rfl⟩, fun ⟨hc, hx, hn⟩ => BitVec.eq_of_toNat_eq ?_⟩
  rw [← (fieldsReassembleTheWord v).2.1, hc, hx, hn, (fieldsReassembleTheWord w).2.1]

theorem word_eq_iff_XYN {v w : Word} :
    v = w ↔ fieldClass v = fieldClass w ∧ fieldX v = fieldX w ∧ fieldY v = fieldY w ∧ fieldN v = fieldN w := by
  refine ⟨fun h => h ▸ ⟨rfl, rfl, rfl, rfl⟩, fun ⟨hc, hx, hy, hn⟩ => BitVec.eq_of_toNat_eq ?_⟩
  rw [← (fieldsReassembleTheWord v).1, hc, hx, hy, hn, (fieldsReassembleTheWord w).1]

theorem eq_packNNN_iff {w : Word} {c : Nibble} {nnn : Addr12} :
    w = packNNN c nnn ↔ fieldClass w = c ∧ fieldNNN w = nnn := by
  simp [word_eq_iff_NNN]

theorem eq_packXNN_iff {w : Word} {c : Nibble} {x : RegIdx} {nn : Byte} :
    w = packXNN c x nn ↔ fieldClass w = c ∧ fieldX w = x ∧ fieldNN w = nn := by
  simp [word_eq_iff_XNN]

theorem eq_packXYN_iff {w : Word} {c : Nibble} {x y : RegIdx} {n : Nibble} :
    w = packXYN c x y n ↔ fieldClass w = c ∧ fieldX w = x ∧ fieldY w = y ∧ fieldN w = n := by
  simp [word_eq_iff_XYN]

/-! ### Decoding undoes encoding -/

/-- The fields of a packed word are what was packed, so the decoder finds the class, the code and the operands. -/
theorem decodeWord_encode (i : Instr) : decodeWord (encode i) = some i := by
  cases i with
  | cls | ret => rfl
  | _ => simp [encode, decodeWord, decodeClass8, decodeClassE, decodeClassF]

/-- Settles O3: `decodeWord_encode`, and the two bytes of a word put together are the word. -/
theorem decodeOfEncodeIsTheInstruction : Obligations.DecodeOfEncodeIsTheInstruction := by
  intro i _
  refine ⟨decodeWord_encode i, fun rest => ?_⟩
  rw [encodeBytes, List.cons_append, List.cons_append, List.nil_append, decode_eq_ok, wordOfBytes_highByte_lowByte]
  exact ⟨decodeWord_encode i, rfl⟩

/-! ### What a mask of the map reads: the bits it covers are whole fields -/

theorem fieldX_eq_iff {v w : Word} : fieldX v = fieldX w ↔ v.extractLsb' 8 4 = w.extractLsb' 8 4 := BitVec.toFin_inj

theorem fieldY_eq_iff {v w : Word} : fieldY v = fieldY w ↔ v.extractLsb' 4 4 = w.extractLsb' 4 4 := BitVec.toFin_inj

theorem nibble_and_ones (n : Nibble) : n &&& 0xF#4 = n := BitVec.and_allOnes

theorem byte_and_ones (b : Byte) : b &&& 0xFF#8 = b := BitVec.and_allOnes

theorem word_and_ones (w : Word) : w &&& 0xFFFF#16 = w := BitVec.and_allOnes

theorem and_classMask_eq_iff {w code : Word} (h : code &&& 0xF000#16 = code) :
    w &&& 0xF000#16 = code ↔ fieldClass w = code.extractLsb' 12 4 := by
  conv_lhs => rw [← h]
  simp [word_eq_iff_NNN, fieldClass, fieldNNN, BitVec.extractLsb'_and, nibble_and_ones]

theorem and_classNMask_eq_iff {w code : Word} (h : code &&& 0xF00F#16 = code) :
    w &&& 0xF00F#16 = code ↔ fieldClass w = code.extractLsb' 12 4 ∧ fieldN w = code.extractLsb' 0 4 := by
  conv_lhs => rw [← h]
  simp [word_eq_iff_XYN, fieldX_eq_iff, fieldY_eq_iff, fieldClass, fieldN, BitVec.extractLsb'_and, nibble_and_ones]

theorem and_classNNMask_eq_iff {w code : Word} (h : code &&& 0xF0FF#16 = code) :
    w &&& 0xF0FF#16 = code ↔ fieldClass w = code.extractLsb' 12 4 ∧ fieldNN w = code.extractLsb' 0 8 := by
  conv_lhs => rw [← h]
  simp [word_eq_iff_XNN, fieldX_eq_iff, fieldClass, fieldNN, BitVec.extractLsb'_and, nibble_and_ones, byte_and_ones]

theorem and_classXYMask_eq_iff {v w : Word} :
    v &&& 0xFFF0#16 = w &&& 0xFFF0#16 ↔ fieldClass v = fieldClass w ∧ fieldX v = fieldX w ∧ fieldY v = fieldY w := by
  simp [word_eq_iff_XYN, fieldX_eq_iff, fieldY_eq_iff, fieldClass, fieldN, BitVec.extractLsb'_and, nibble_and_ones]

/-! ### The decoder is the map -/

theorem nibble_cases (c : Nibble) :
    c = 0x0#4 ∨ c = 0x1#4 ∨ c = 0x2#4 ∨ c = 0x3#4 ∨ c = 0x4#4 ∨ c = 0x5#4 ∨ c = 0x6#4 ∨ c = 0x7#4 ∨
    c = 0x8#4 ∨ c = 0x9#4 ∨ c = 0xA#4 ∨ c = 0xB#4 ∨ c = 0xC#4 ∨ c = 0xD#4 ∨ c = 0xE#4 ∨ c = 0xF#4 := by
  revert c
  decide

theorem decodeClass0_eq_some {w : Word} {i : Instr} :
    decodeClass0 w = some i ↔ fieldN w = 0x0#4 ∧ .cls = i ∨ fieldN w = 0xE#4 ∧ .ret = i := by
  unfold decodeClass0
  split <;> simp_all

theorem decodeClass8_eq_some {w : Word} {i : Instr} :
    decodeClass8 w = some i ↔
      fieldN w = 0x0#4 ∧ .ldReg (fieldX w) (fieldY w) = i ∨ fieldN w = 0x1#4 ∧ .orReg (fieldX w) (fieldY w) = i ∨
      fieldN w = 0x2#4 ∧ .andReg (fieldX w) (fieldY w) = i ∨ fieldN w = 0x3#4 ∧ .xorReg (fieldX w) (fieldY w) = i ∨
      fieldN w = 0x4#4 ∧ .addReg (fieldX w) (fieldY w) = i ∨ fieldN w = 0x5#4 ∧ .subReg (fieldX w) (fieldY w) = i ∨
      fieldN w = 0x6#4 ∧ .shr (fieldX w) (fieldY w) = i ∨ fieldN w = 0x7#4 ∧ .subnReg (fieldX w) (fieldY w) = i ∨
      fieldN w = 0xE#4 ∧ .shl (fieldX w) (fieldY w) = i := by
  unfold decodeClass8
  split <;> simp_all

theorem decodeClassE_eq_some {w : Word} {i : Instr} :
    decodeClassE w = some i ↔ fieldNN w = 0x9E#8 ∧ .skp (fieldX w) = i ∨ fieldNN w = 0xA1#8 ∧ .sknp (fieldX w) = i := by
  unfold decodeClassE
  split <;> simp_all

theorem decodeClassF_eq_some {w : Word} {i : Instr} :
    decodeClassF w = some i ↔
      fieldNN w = 0x07#8 ∧ .ldVxDt (fieldX w) = i ∨ fieldNN w = 0x0A#8 ∧ .ldVxK (fieldX w) = i ∨
      fieldNN w = 0x15#8 ∧ .ldDtVx (fieldX w) = i ∨ fieldNN w = 0x18#8 ∧ .ldStVx (fieldX w) = i ∨
      fieldNN w = 0x1E#8 ∧ .addI (fieldX w) = i ∨ fieldNN w = 0x29#8 ∧ .ldF (fieldX w) = i ∨
      fieldNN w = 0x33#8 ∧ .ldB (fieldX w) = i ∨ fieldNN w = 0x55#8 ∧ .storeRegs (fieldX w) = i ∨
      fieldNN w = 0x65#8 ∧ .loadRegs (fieldX w) = i := by
  unfold decodeClassF
  split <;> simp_all

/-- A word selects an instruction exactly when a row of the map selects it: class by class, the rows of the other classes
drop out. -/
theorem decodeWord_eq_some_iff_row {w : Word} {i : Instr} :
    decodeWord w = some i ↔ ∃ r ∈ opcodeRows w, w &&& r.mask = r.code ∧ r.instr = i := by
  simp only [opcodeRows, opcodeRowsLow, opcodeRowsAlu, opcodeRowsHigh, opcodeRowsF, mapRow, List.cons_append,
    List.nil_append, List.mem_cons, List.not_mem_nil, or_false, exists_eq_or_imp, exists_eq_left, and_classMask_eq_iff,
    and_classNMask_eq_iff, and_classNNMask_eq_iff, BitVec.zero_and, BitVec.reduceAnd, BitVec.extractLsb'_zero,
    BitVec.reduceExtractLsb']
  obtain hc | hc | hc | hc | hc | hc | hc | hc | hc | hc | hc | hc | hc | hc | hc | hc := nibble_cases (fieldClass w) <;>
    simp [decodeWord, hc, decodeClass0_eq_some, decodeClass8_eq_some, decodeClassE_eq_some, decodeClassF_eq_some]

/-- The rows of the map are the constructors of `Instr` in their order. -/
theorem opcodeRows_ctorIdx (w : Word) : (opcodeRows w).map (·.instr.ctorIdx) = List.range 34 := rfl

theorem opcodeRows_ctorIdx_nodup (w : Word) : ((opcodeRows w).map (·.instr.ctorIdx)).Nodup := by
  rw [opcodeRows_ctorIdx]
  exact List.nodup_range

/-- Settles O6: two rows that select one word make one instruction, and no two rows share a constructor. -/
theorem decoderIsTheOpcodeMap : Obligations.DecoderIsTheOpcodeMap := by
  refine ⟨fun _ _ => decodeWord_eq_some_iff_row, ?_⟩
  intro w r hr q hq hrw hqw
  have hri : decodeWord w = some r.instr := decodeWord_eq_some_iff_row.mpr ⟨r, hr, hrw, rfl⟩
  have hqi : decodeWord w = some q.instr := decodeWord_eq_some_iff_row.mpr ⟨q, hq, hqw, rfl⟩
  have hctor : r.instr.ctorIdx = q.instr.ctorIdx := by rw [Option.some.inj (hri.symm.trans hqi)]
  exact List.inj_on_of_nodup_map (f := (·.instr.ctorIdx)) (opcodeRows_ctorIdx_nodup w) hr hq hctor

/-! ### The unknown words, and the bits that decoding keeps -/

/-- The nibbles that are no code of class 8, listed. -/
theorem mem_class8_unknown_iff (n : Nibble) :
    n ∈ [0x8#4, 0x9#4, 0xA#4, 0xB#4, 0xC#4, 0xD#4, 0xF#4] ↔
      n ∉ [0x0#4, 0x1#4, 0x2#4, 0x3#4, 0x4#4, 0x5#4, 0x6#4, 0x7#4, 0xE#4] := by
  revert n
  decide

/-- Settles O5: class by class, the code is none of those that the class's decoder knows exactly when the table lists it. -/
theorem unknownWordsAreExactlyTheTables : Obligations.UnknownWordsAreExactlyTheTables := by
  intro w
  simp only [Option.eq_none_iff_forall_ne_some, ne_eq, ← not_exists, unknownByTable, mem_class8_unknown_iff]
  obtain hc | hc | hc | hc | hc | hc | hc | hc | hc | hc | hc | hc | hc | hc | hc | hc := nibble_cases (fieldClass w) <;>
    simp [decodeWord, hc, decodeClass0_eq_some, decodeClass8_eq_some, decodeClassE_eq_some, decodeClassF_eq_some,
      exists_or]

/-- Settles O4: class by class, the mask covers whole fields, and the operands are fields of the word. -/
theorem decodingKeepsEveryUsedBit : Obligations.DecodingKeepsEveryUsedBit := by
  intro w
  suffices h : ∀ i, decodeWord w = some i → w &&& usedBits i = encode i &&& usedBits i from fun i hi => (h i hi).symm
  obtain hc | hc | hc | hc | hc | hc | hc | hc | hc | hc | hc | hc | hc | hc | hc | hc := nibble_cases (fieldClass w) <;>
    simp [decodeWord, hc, decodeClass0_eq_some, decodeClass8_eq_some, decodeClassE_eq_some, decodeClassF_eq_some,
      or_imp, forall_and, encode, usedBits, word_and_ones, and_classNMask_eq_iff, and_classXYMask_eq_iff,
      eq_packNNN_iff, eq_packXNN_iff, eq_packXYN_iff]

/-- Settles O1, word by word. -/
theorem writtenOutWordsDecode : Obligations.WrittenOutWordsDecode := by
  unfold Obligations.WrittenOutWordsDecode
  decide

end Sys2Proof.Machine
end

section
/-! PROOFS. The error of each handler, and control transfer: jump, call, return, nested calls. -/

namespace Sys2Proof.Machine

/-! ### The errors of the handlers -/

/-- A handler's outcome against the error tabled for it: that fault, or a next state where there is none. -/
def EndsAs (r : Result) : Option Fault → Prop
  | some e => r = .fault e
  | none => ∃ t, r = .next t

theorem next_endsAs (t : State) : EndsAs (.next t) none := ⟨t, rfl⟩

theorem guardRange_endsAs (s : State) (len : Nat) (t : State) :
    EndsAs (guardRange s.idx len (.next t)) (rangeError s len) := by
  rw [guardRange_eq]
  cases rangeError s len with
  | none => exact next_endsAs t
  | some e => rfl

theorem withKey_endsAs (x : RegIdx) (s : State) (k : KeyIdx → State) :
    EndsAs (withKey x s fun q => .next (k q)) (keyError s x) := by
  unfold keyError
  by_cases small : (s.reg x).toNat < 16
  · rw [withKey_of_index x s _ small, if_neg (by omega)]
    exact next_endsAs _
  · rw [withKey_of_large x s _ small, if_pos (by omega)]
    rfl

theorem push_endsAs (s : State) (v : Word) (k : State → State) :
    EndsAs (s.push v fun u => .next (k u)) (if s.sp = 16 then some .stackOverflow else none) := by
  by_cases full : s.sp = 16
  · rw [push_of_full s v _ (by simp [full, stackDepth]), if_pos full]
    rfl
  · rw [push_of_room s v _ (by simp only [stackDepth]; omega), if_neg full]
    exact next_endsAs _

theorem pop_endsAs (s : State) (k : Word → State → State) :
    EndsAs (s.pop fun w u => .next (k w u)) (if s.sp = 0 then some .stackUnderflow else none) := by
  by_cases empty : s.sp = 0
  · rw [pop_of_empty s _ (by simp [empty]), if_pos empty]
    rfl
  · rw [pop_of_entry s _ (by omega), if_neg empty]
    exact next_endsAs _

/-- The table of R241: an instruction with a check ends as its check does, and every other one completes. -/
theorem exec_endsAs (i : Instr) (s : State) : EndsAs (exec i s) (handlerError i s) := by
  cases i with
  | ret => exact pop_endsAs s fun target u => u.setPc target
  | call nnn => exact push_endsAs s s.pc fun u => u.setPc (nnn.setWidth 16)
  | drw x y n => exact guardRange_endsAs s n.toNat _
  | ldB x => exact guardRange_endsAs s 3 _
  | storeRegs x =>
    rw [handlerError, ← regList_length x s]
    exact guardRange_endsAs s (regList x s).length _
  | loadRegs x => exact guardRange_endsAs s (x.val + 1) _
  | skp x => exact withKey_endsAs x s fun k => s.skipIf (s.key k)
  | sknp x => exact withKey_endsAs x s fun k => s.skipIf (!s.key k)
  | _ => exact next_endsAs _

/-- Settles O11: the two directions of `exec_endsAs`. -/
theorem handlersFaultExactlyAsTabled : Obligations.HandlersFaultExactlyAsTabled := by
  intro i s
  have h := exec_endsAs i s
  refine ⟨fun e he => ?_, fun hn => ?_⟩
  · rwa [he] at h
  · rwa [hn] at h

/-! ### Jumps -/

theorem exec_jp (nnn : Addr12) (s : State) : exec (.jp nnn) s = .next (s.setPc (nnn.setWidth 16)) := rfl

theorem exec_jpV0 (nnn : Addr12) (s : State) :
    exec (.jpV0 nnn) s = .next (s.setPc ((s.reg 0).setWidth 16 + nnn.setWidth 16)) := rfl

theorem advance_setPc (s : State) (v : Word) : s.advance.setPc v = s.setPc v := rfl

theorem setPc_self (s : State) : s.setPc s.pc = s := rfl

theorem addr_setWidth_toNat (nnn : Addr12) : (nnn.setWidth 16).toNat = nnn.toNat :=
  BitVec.toNat_setWidth_of_le (by decide)

/-- Settles O40: a jump writes `pc` alone, over the advance of the Step that fetched it. -/
theorem jumpCompletes : Obligations.JumpCompletes := by
  intro nnn s
  refine ⟨⟨_, exec_jp nnn s, addr_setWidth_toNat nnn, (setPc_writesOnly s _).changesOnly⟩, fun hf hpc => ?_⟩
  have hself : nnn.setWidth 16 = s.pc := BitVec.eq_of_toNat_eq ((addr_setWidth_toNat nnn).trans hpc.symm)
  rw [step_of_fetches hf, exec_jp, advance_setPc, hself, setPc_self]

/-- Settles O41: the sum of a byte and a 12-bit address fits `pc`. -/
theorem jumpWithOffsetCompletes : Obligations.JumpWithOffsetCompletes := by
  intro nnn s
  refine ⟨_, exec_jpV0 nnn s, ?_, (setPc_writesOnly s _).changesOnly⟩
  rw [State.setPc_pc]
  bv_omega

/-! ### Call and return -/

/-- Settles O42: a push, which writes the one entry at the old stack pointer. -/
theorem callCompletesOrOverflows : Obligations.CallCompletesOrOverflows := by
  intro nnn s
  refine ⟨fun room => ?_, fun full => ?_⟩
  · have hx := (exec_call nnn s).trans (push_of_room s _ _ room)
    refine ⟨_, hx, rfl, fun j => ?_, addr_setWidth_toNat nnn, (exec_writesOnly hx).changesOnly⟩
    simp [Vector.getElem_set, eq_comm]
  · exact (exec_call nnn s).trans (push_of_full s _ _ (by simp [full, stackDepth]))

/-- Settles O43: a pop, which writes no entry. -/
theorem returnCompletesOrUnderflows : Obligations.ReturnCompletesOrUnderflows := by
  intro s
  refine ⟨fun entry => ?_, fun empty => ?_⟩
  · have hx := (exec_ret s).trans (pop_of_entry s _ entry)
    refine ⟨_, hx, ⟨⟨s.sp.val - 1, by omega⟩, ?_, rfl, rfl⟩, fun _ => rfl, (exec_writesOnly hx).changesOnly⟩
    exact Nat.sub_add_cancel entry
  · exact (exec_ret s).trans (pop_of_empty s _ (by omega))

/-- A `pc` that came back to what it was is no change. -/
theorem ChangesOnly.of_pc_eq {ps : List Part} {s t : State} (h : ChangesOnly (.pc :: ps) s t) (hpc : t.pc = s.pc) :
    ChangesOnly ps s t := fun p hp => by
  by_cases hp' : p = .pc
  · exact hp' ▸ hpc
  · exact h p (by simp [hp, hp'])

/-- Settles O44: the entry that the return pops is the one that the call pushed. -/
theorem callThenReturnComesBack : Obligations.CallThenReturnComesBack := by
  intro nnn s p room
  obtain ⟨t, hcall, htsp, htstack, -, hst⟩ := (callCompletesOrOverflows nnn s).1 room
  have entry : 0 < (t.setPc p).sp.val := by rw [State.setPc_sp]; omega
  obtain ⟨u, hret, ⟨j, hj, husp, hupc⟩, -, htu⟩ := (returnCompletesOrUnderflows (t.setPc p)).1 entry
  rw [State.setPc_sp] at hj
  have hjs : j.val = s.sp.val := by omega
  have hpc : u.pc = s.pc := by
    rw [hupc, State.setPc_stack, htstack, if_pos hjs]
  have hmoved : ChangesOnly [.pc, .stack] t (t.setPc p) := (setPc_writesOnly t p).changesOnly.mono (by simp)
  exact ⟨t, u, hcall, hret, hpc, Fin.ext (husp.trans hjs), ((hst.trans hmoved).trans htu).of_pc_eq hpc⟩

/-! ### Nested calls -/

theorem nestedCalls_cons_of_next {target : Addr12} {rest : List Addr12} {s t : State}
    (h : exec (.call target) s.advance = .next t) : nestedCalls (target :: rest) s = nestedCalls rest t := by
  rw [nestedCalls, h]

theorem nestedCalls_cons_of_fault {target : Addr12} {rest : List Addr12} {s : State} {e : Fault}
    (h : exec (.call target) s.advance = .fault e) : nestedCalls (target :: rest) s = .fault e := by
  rw [nestedCalls, h]

/-- Settles O45, by induction on the targets: each call takes one entry above those in use, or finds none. -/
theorem nestedCallsSucceedUpToSixteen : Obligations.NestedCallsSucceedUpToSixteen := by
  intro targets
  induction targets with
  | nil =>
    intro s
    exact ⟨fun _ => ⟨s, rfl, rfl, fun _ _ => rfl⟩, fun h => by simp only [List.length_nil] at h; omega⟩
  | cons target rest ih =>
    intro s
    rw [List.length_cons]
    obtain ⟨hroom, hfull⟩ := callCompletesOrOverflows target s.advance
    rw [State.advance_sp] at hroom hfull
    by_cases room : s.sp.val < 16
    · obtain ⟨t, hcall, htsp, htstack, -⟩ := hroom room
      obtain ⟨hcomplete, hoverflow⟩ := ih t
      rw [nestedCalls_cons_of_next hcall]
      refine ⟨fun h => ?_, fun h => hoverflow (by omega)⟩
      obtain ⟨u, hu, husp, hustack⟩ := hcomplete (by omega)
      refine ⟨u, hu, by omega, fun j hj => ?_⟩
      rw [hustack j (by omega), htstack j, if_neg (by omega), State.advance_stack]
    · exact ⟨fun h => absurd h (by omega), fun _ => nestedCalls_cons_of_fault (hfull (by omega))⟩

end Sys2Proof.Machine
end

section
/-! PROOFS. The four skips on registers (41_skips.md). -/

namespace Sys2Proof.Machine

/-! ### Where a skip on a comparison goes -/

theorem skipIf_beq_pc (s : State) (a b : Byte) :
    (s.skipIf (a == b)).pc = if a = b then s.pc + 2 else s.pc := by
  simp only [State.skipIf_pc, beq_iff_eq]

theorem skipIf_bne_pc (s : State) (a b : Byte) :
    (s.skipIf (a != b)).pc = if a = b then s.pc else s.pc + 2 := by
  simp only [State.skipIf_pc, bne_iff_ne, ne_eq, ite_not]

/-! ### The skips as the operations they are -/

theorem exec_seImm (x : RegIdx) (nn : Byte) (s : State) :
    exec (.seImm x nn) s = .next (s.skipIf (s.reg x == nn)) := rfl

theorem exec_sneImm (x : RegIdx) (nn : Byte) (s : State) :
    exec (.sneImm x nn) s = .next (s.skipIf (s.reg x != nn)) := rfl

theorem exec_seReg (x y : RegIdx) (s : State) :
    exec (.seReg x y) s = .next (s.skipIf (s.reg x == s.reg y)) := rfl

theorem exec_sneReg (x y : RegIdx) (s : State) :
    exec (.sneReg x y) s = .next (s.skipIf (s.reg x != s.reg y)) := rfl

/-- Settles O46: each of the four is a skip, which writes at most `pc`, on an equality or its negation. -/
theorem registerSkipsComplete : Obligations.RegisterSkipsComplete := by
  intro x y nn s
  have hframe (taken : Bool) : ChangesOnly [.pc] s (s.skipIf taken) := (skipIf_writesOnly s taken).changesOnly
  refine ⟨?seImm, ?sneImm, ?seReg, ?sneReg⟩
  case seImm => exact ⟨_, exec_seImm x nn s, hframe _, skipIf_beq_pc s _ _⟩
  case sneImm => exact ⟨_, exec_sneImm x nn s, hframe _, skipIf_bne_pc s _ _⟩
  case seReg => exact ⟨_, exec_seReg x y s, hframe _, skipIf_beq_pc s _ _⟩
  case sneReg => exact ⟨_, exec_sneReg x y s, hframe _, skipIf_bne_pc s _ _⟩

end Sys2Proof.Machine
end

section
/-! PROOFS. Load-immediate, add-immediate and random-and (42_immediate_and_random.md). -/

namespace Sys2Proof.Machine

/-! ### The three as the register writes they are -/

theorem exec_ldImm (x : RegIdx) (nn : Byte) (s : State) : exec (.ldImm x nn) s = .next (s.setReg x nn) := rfl

theorem exec_addImm (x : RegIdx) (nn : Byte) (s : State) :
    exec (.addImm x nn) s = .next (s.setReg x (s.reg x + nn)) := rfl

theorem exec_rnd (x : RegIdx) (nn : Byte) (s : State) :
    exec (.rnd x nn) s = .next ((s.setReg x (Config.random s.draws &&& nn)).setDraws (s.draws + 1)) := rfl

/-- Settles O21: the register file after the one write of `NN`. -/
theorem loadImmediateCompletes : Obligations.LoadImmediateCompletes := by
  intro x nn s
  exact ⟨_, exec_ldImm x nn s, State.setReg_reg s x nn, (exec_writesOnly (exec_ldImm x nn s)).changesOnly⟩

/-- Settles O22: the sum of two bytes is taken modulo 256, and it is the only register written, so no flag is. -/
theorem addImmediateCompletes : Obligations.AddImmediateCompletes := by
  intro x nn s
  refine ⟨_, exec_addImm x nn s, fun r => ?_, (exec_writesOnly (exec_addImm x nn s)).changesOnly⟩
  rw [State.setReg_reg, apply_ite BitVec.toNat, BitVec.toNat_add]

/-- A masked byte has no bit outside its mask. -/
theorem byte_and_mask_and_not (b nn : Byte) : b &&& nn &&& ~~~nn = 0 := by
  rw [BitVec.and_assoc, BitVec.and_not_self]
  exact BitVec.and_zero

/-- Settles O23: whatever byte the draw gives, what is written is masked by `NN`, and the next draw is another one. -/
theorem randomAndCompletes : Obligations.RandomAndCompletes := by
  intro x nn s
  have hreg (r : RegIdx) : ((s.setReg x (Config.random s.draws &&& nn)).setDraws (s.draws + 1)).reg r =
      if r = x then Config.random s.draws &&& nn else s.reg r := State.setReg_reg s x _ r
  refine ⟨_, exec_rnd x nn s, hreg, ?_, rfl, (exec_writesOnly (exec_rnd x nn s)).changesOnly⟩
  rw [hreg, if_pos rfl, byte_and_mask_and_not]

end Sys2Proof.Machine
end

section
/-! PROOFS. The register-to-register operations (43_register_alu.md). -/

namespace Sys2Proof.Machine

/-! ### The nine as the register writes they are -/

theorem exec_ldReg (x y : RegIdx) (s : State) : exec (.ldReg x y) s = .next (s.setReg x (s.reg y)) := rfl

theorem exec_orReg (x y : RegIdx) (s : State) : exec (.orReg x y) s = .next (s.setReg x (s.reg x ||| s.reg y)) := rfl

theorem exec_andReg (x y : RegIdx) (s : State) : exec (.andReg x y) s = .next (s.setReg x (s.reg x &&& s.reg y)) := rfl

theorem exec_xorReg (x y : RegIdx) (s : State) : exec (.xorReg x y) s = .next (s.setReg x (s.reg x ^^^ s.reg y)) := rfl

theorem exec_addReg (x y : RegIdx) (s : State) :
    exec (.addReg x y) s = .next (s.writeResultFlag x (s.reg x + s.reg y) (carryOut (s.reg x) (s.reg y))) := rfl

theorem exec_subReg (x y : RegIdx) (s : State) :
    exec (.subReg x y) s = .next (s.writeResultFlag x (s.reg x - s.reg y) (noBorrow (s.reg x) (s.reg y))) := rfl

theorem exec_subnReg (x y : RegIdx) (s : State) :
    exec (.subnReg x y) s = .next (s.writeResultFlag x (s.reg y - s.reg x) (noBorrow (s.reg y) (s.reg x))) := rfl

theorem exec_shr (x y : RegIdx) (s : State) : exec (.shr x y) s = .next (shiftRight Config.shiftSource x y s) := rfl

theorem exec_shl (x y : RegIdx) (s : State) : exec (.shl x y) s = .next (shiftLeft Config.shiftSource x y s) := rfl

/-! ### One register read back as a number -/

theorem writeResultFlag_reg_toNat (s : State) (x r : RegIdx) (v : Byte) (b : Bool) :
    ((s.writeResultFlag x v b).reg r).toNat =
      if r = flagReg then (if b then 1 else 0) else if r = x then v.toNat else (s.reg r).toNat := by
  rw [State.writeResultFlag_reg, apply_ite BitVec.toNat, apply_ite BitVec.toNat, flagByte_toNat]

theorem writeFlagResult_reg_toNat (s : State) (x r : RegIdx) (v : Byte) (b : Bool) :
    ((s.writeFlagResult x v b).reg r).toNat =
      if r = x then v.toNat else if r = flagReg then (if b then 1 else 0) else (s.reg r).toNat := by
  rw [State.writeFlagResult_reg, apply_ite BitVec.toNat, apply_ite BitVec.toNat, flagByte_toNat]

/-! ### The results and the flags as numbers -/

theorem byte_sub_toNat (a b : Byte) : (a - b).toNat = (a.toNat + 256 - b.toNat) % 256 := by
  rw [BitVec.toNat_sub]
  omega

theorem byte_shiftRight_one_toNat (a : Byte) : (a >>> 1).toNat = a.toNat / 2 := by
  rw [BitVec.toNat_ushiftRight, Nat.shiftRight_one]

theorem byte_shiftLeft_one_toNat (a : Byte) : (a <<< 1).toNat = a.toNat * 2 % 256 := by
  rw [BitVec.toNat_shiftLeft, Nat.shiftLeft_eq, Nat.pow_one]

/-- The bit shifted out on the right is the remainder of the halving. -/
theorem outRight_toNat (a : Byte) : (if outRight a then 1 else 0) = a.toNat % 2 := by
  simp only [outRight, BitVec.getLsbD, Nat.testBit_zero, decide_eq_true_eq]
  split <;> omega

/-- The bit shifted out on the left is the carry of the doubling. -/
theorem outLeft_toNat (a : Byte) : (if outLeft a then 1 else 0) = a.toNat / 128 := by
  simp only [outLeft, BitVec.getLsbD, Nat.testBit_eq_decide_div_mod_eq, decide_eq_true_eq]
  split <;> omega

/-- The shifted register, chosen by the parameter (43_register_alu.md R141). -/
theorem shiftOperand_eq_ite (src : ShiftSource) (x y : RegIdx) (s : State) :
    shiftOperand src x y s = if src = .regX then s.reg x else s.reg y := by
  cases src <;> rfl

/-! ### The obligations -/

/-- Settles O24: each of the three writes its result in `x[X]` alone, so no flag, and a bit of the result is that of the two
operands. -/
theorem bitwiseOperationsComplete : Obligations.BitwiseOperationsComplete := by
  intro x y s
  have hframe (v : Byte) : ChangesOnly [.regs] s (s.setReg x v) := (setRegs_writesOnly s _).changesOnly
  have hresult (v : Byte) : (s.setReg x v).reg x = v := by rw [State.setReg_reg, if_pos rfl]
  have hother (v : Byte) (r : RegIdx) (hr : r ≠ x) : (s.setReg x v).reg r = s.reg r := by
    rw [State.setReg_reg, if_neg hr]
  refine ⟨?or, ?and, ?xor⟩
  case or => exact ⟨_, exec_orReg x y s, hframe _, fun k _ => by rw [hresult, BitVec.getLsbD_or], hother _⟩
  case and => exact ⟨_, exec_andReg x y s, hframe _, fun k _ => by rw [hresult, BitVec.getLsbD_and], hother _⟩
  case xor => exact ⟨_, exec_xorReg x y s, hframe _, fun k _ => by rw [hresult, BitVec.getLsbD_xor], hother _⟩

/-- Settles O25: the register file after the one write of `x[Y]`. -/
theorem loadRegisterCompletes : Obligations.LoadRegisterCompletes := by
  intro x y s
  exact ⟨_, exec_ldReg x y s, State.setReg_reg s x _, (exec_writesOnly (exec_ldReg x y s)).changesOnly⟩

/-- Settles O26: the flag is written last, and it is computed from the registers before the write. -/
theorem addWithCarryCompletes : Obligations.AddWithCarryCompletes := by
  intro x y s
  refine ⟨_, exec_addReg x y s, fun r => ?_, (exec_writesOnly (exec_addReg x y s)).changesOnly⟩
  simp only [writeResultFlag_reg_toNat, carryOut, decide_eq_true_eq, BitVec.toNat_add, Nat.reducePow]

/-- Settles O27: each of the two is the difference and the inverted borrow of a minuend and a subtrahend; they differ in which
register is which. -/
theorem subtractsComplete : Obligations.SubtractsComplete := by
  intro x y s
  have hregs (a b : Byte) (r : RegIdx) : ((s.writeResultFlag x (a - b) (noBorrow a b)).reg r).toNat =
      if r = flagReg then (if b.toNat ≤ a.toNat then 1 else 0)
      else if r = x then (a.toNat + 256 - b.toNat) % 256 else (s.reg r).toNat := by
    simp only [writeResultFlag_reg_toNat, noBorrow, decide_eq_true_eq, byte_sub_toNat]
  constructor
  · exact ⟨_, exec_subReg x y s, (exec_writesOnly (exec_subReg x y s)).changesOnly, hregs _ _⟩
  · exact ⟨_, exec_subnReg x y s, (exec_writesOnly (exec_subnReg x y s)).changesOnly, hregs _ _⟩

/-- Settles O28: the source is the model's shift operand, for either setting of the parameter; the result is written last. -/
theorem shiftsComplete : Obligations.ShiftsComplete := by
  intro x y s src hsrc
  rw [← shiftOperand_eq_ite] at hsrc
  subst hsrc
  constructor
  · refine ⟨_, exec_shr x y s, (exec_writesOnly (exec_shr x y s)).changesOnly, fun r => ?_⟩
    rw [shiftRight, writeFlagResult_reg_toNat, byte_shiftRight_one_toNat, outRight_toNat]
  · refine ⟨_, exec_shl x y s, (exec_writesOnly (exec_shl x y s)).changesOnly, fun r => ?_⟩
    rw [shiftLeft, writeFlagResult_reg_toNat, byte_shiftLeft_one_toNat, outLeft_toNat]

end Sys2Proof.Machine
end

section
/-! PROOFS. The index register, stores and loads (44_index_and_memory.md). -/

namespace Sys2Proof.Machine

/-! ### The writes of `I` -/

theorem exec_ldI (nnn : Addr12) (s : State) : exec (.ldI nnn) s = .next (s.setIdx (nnn.setWidth 16)) := rfl

theorem exec_addI (x : RegIdx) (s : State) :
    exec (.addI x) s = .next (s.setIdx (s.idx + (s.reg x).setWidth 16)) := rfl

theorem exec_ldF (x : RegIdx) (s : State) : exec (.ldF x) s = .next (s.setIdx (glyphAddress (s.reg x))) := rfl

theorem byte_setWidth_toNat (b : Byte) : (b.setWidth 16).toNat = b.toNat :=
  BitVec.toNat_setWidth_of_le (by decide)

/-- Five times a byte fits the index register. -/
theorem glyphAddress_toNat (v : Byte) : (glyphAddress v).toNat = v.toNat * 5 := by
  rw [glyphAddress, BitVec.toNat_mul, byte_setWidth_toNat]
  exact Nat.mod_eq_of_lt (calc
    v.toNat * 5 < 256 * 5 := Nat.mul_lt_mul_of_pos_right v.isLt (by decide)
    _ < 2 ^ 16 := by decide)

/-- Settles O29: the one write of `I`, of an address that fits it. -/
theorem setIndexCompletes : Obligations.SetIndexCompletes := by
  intro nnn s
  exact ⟨_, exec_ldI nnn s, addr_setWidth_toNat nnn, (exec_writesOnly (exec_ldI nnn s)).changesOnly⟩

/-- Settles O30: the sum of two words is taken modulo 65536, and only `I` is written, so no flag is. -/
theorem addToIndexCompletes : Obligations.AddToIndexCompletes := by
  intro x s
  refine ⟨_, exec_addI x s, ?_, (exec_writesOnly (exec_addI x s)).changesOnly⟩
  rw [State.setIdx_idx, BitVec.toNat_add, byte_setWidth_toNat]

/-- Settles O31: the product is not reduced, and for a digit up to 15 it is at most 75. -/
theorem indexToGlyphCompletes : Obligations.IndexToGlyphCompletes := by
  intro x s
  have hidx : (s.setIdx (glyphAddress (s.reg x))).idx.toNat = (s.reg x).toNat * 5 := glyphAddress_toNat (s.reg x)
  exact ⟨_, exec_ldF x s, hidx, fun digit => by omega, (exec_writesOnly (exec_ldF x s)).changesOnly⟩

/-! ### The block at `I` -/

theorem storeAtIndex_of_inside {bs : List Byte} {s : State} (h : s.idx.toNat + bs.length ≤ memSize) :
    storeAtIndex bs s = .next (s.setMem (Memory.writeList s.mem s.idx.toNat bs)) :=
  guardRange_of_inside _ (.inr h)

theorem storeAtIndex_of_outside {bs : List Byte} {s : State} (h0 : 0 < bs.length)
    (h : memSize < s.idx.toNat + bs.length) : storeAtIndex bs s = .fault (.memoryOutOfRange (max s.idx.toNat memSize)) :=
  guardRange_of_outside _ h0 h

/-- A store of a list of bytes leaves byte `j` of the list `j` addresses up from its start. -/
theorem setMem_writeList_byte_add (s : State) (a : Nat) {j : Nat} {bs : List Byte} (h : j < bs.length) :
    (s.setMem (Memory.writeList s.mem a bs)).byte (a + j) = bs[j] := by
  rw [setMem_writeList_byte, dif_pos (by omega)]
  simp only [Nat.add_sub_cancel_left]

/-- store-bcd leaves digit `j` at `I + j`, hundreds first; a decimal digit fits its byte (44_index_and_memory.md R153). -/
theorem exec_ldB_byte_toNat {x : RegIdx} {s t : State} (h : exec (.ldB x) s = .next t) {j n : Nat} (hj : j < 3)
    (hdigit : (bcdDigits (s.reg x))[j] = BitVec.ofNat 8 n) (hn : n < 10) : (t.byte (s.idx.toNat + j)).toNat = n := by
  obtain ⟨-, rfl⟩ := exec_ldB_next h
  rw [(setMem_writeList_byte_add s s.idx.toNat (bs := bcdDigits _) hj).trans hdigit, BitVec.toNat_ofNat]
  omega

/-- Settles O32: a block of three bytes; the hundreds of a byte are at most 2, so each of the three is a digit. -/
theorem storeBcdCompletesOrFaults : Obligations.StoreBcdCompletesOrFaults := by
  intro x s
  refine ⟨fun inside => ?_, fun outside => ?_⟩
  · have hx := (exec_ldB x s).trans
      (storeAtIndex_of_inside (by simp only [bcdDigits_length, memSize]; omega))
    have hundreds : (s.reg x).toNat / 100 < 10 := by have := (s.reg x).isLt; omega
    refine ⟨_, hx, ?_, ?_, ?_, fun a ha => ?_, (exec_writesOnly hx).changesOnly⟩
    · exact exec_ldB_byte_toNat hx (j := 0) (by decide) rfl hundreds
    · exact exec_ldB_byte_toNat hx (j := 1) (by decide) rfl (Nat.mod_lt _ (by decide))
    · exact exec_ldB_byte_toNat hx (j := 2) (by decide) rfl (Nat.mod_lt _ (by decide))
    · exact setMem_writeList_byte_of_outside s (by rw [bcdDigits_length]; omega)
  · exact (exec_ldB x s).trans
      (storeAtIndex_of_outside (by simp) (by simp only [bcdDigits_length, memSize]; omega))

/-- Settles O33: a block of `X + 1` bytes, byte `r` of it register `r`. -/
theorem storeRegistersCompletesOrFaults : Obligations.StoreRegistersCompletesOrFaults := by
  intro x s
  refine ⟨fun inside => ?_, fun outside => ?_⟩
  · have hx := (exec_storeRegs x s).trans
      (storeAtIndex_of_inside (by simp only [regList_length, memSize]; omega))
    refine ⟨_, hx, fun r hr => exec_storeRegs_byte hx hr, fun a ha => ?_, (exec_writesOnly hx).changesOnly⟩
    exact setMem_writeList_byte_of_outside s (by rw [regList_length]; omega)
  · exact (exec_storeRegs x s).trans
      (storeAtIndex_of_outside (by simp) (by simp only [regList_length, memSize]; omega))

/-- Settles O34: the register file read from a block of `X + 1` bytes; no other part is written, `I` with them. -/
theorem loadRegistersCompletesOrFaults : Obligations.LoadRegistersCompletesOrFaults := by
  intro x s
  refine ⟨fun inside => ?_, fun outside => ?_⟩
  · have hx := (exec_loadRegs x s).trans (guardRange_of_inside _ (.inr (by simp only [memSize]; omega)))
    exact ⟨_, hx, loadedRegs_getElem x s.idx.toNat s, (exec_writesOnly hx).changesOnly⟩
  · exact (exec_loadRegs x s).trans
      (guardRange_of_outside _ (Nat.succ_pos _) (by simp only [memSize]; omega))

end Sys2Proof.Machine
end

section
/-! PROOFS. The framebuffer: clear-screen and draw-sprite (45_display.md). -/

namespace Sys2Proof.Machine

/-! ### Clear-screen -/

theorem exec_cls (s : State) : exec .cls s = .next ((s.setFb blankFb).setFbChanged true) := rfl

theorem setFb_blankFb_cell (s : State) (r : Fin fbRows) (c : Fin fbCols) : (s.setFb blankFb).cell r c = false := by
  simp [blankFb]

/-- Settles O52: the blank framebuffer, read cell by cell; the decoder looks at the
class and the last nibble of the word 0000 only. -/
theorem clearScreenCompletes : Obligations.ClearScreenCompletes := by
  refine ⟨by decide, fun s => ⟨_, exec_cls s, fun r c => ?_, rfl, (exec_writesOnly (exec_cls s)).changesOnly⟩⟩
  rw [State.setFbChanged_cell, setFb_blankFb_cell]

/-! ### What a completed draw-sprite leaves -/

section
variable {x y : RegIdx} {n : Nibble} {s t : State} (h : exec (.drw x y n) s = .next t)
include h

theorem exec_drw_fbChanged : t.fbChanged = true := by
  obtain ⟨-, rfl⟩ := exec_drw_next h
  rfl

theorem exec_drw_idx : t.idx = s.idx :=
  instructionsChangeOnlyTheirParts _ s t h .idx (by simp [mayChange])

/-- The cells after the draw and the collision flag, in terms of the cells under the sprite: the drawing loop's
specification for the at most 15 rows at `I`. -/
theorem exec_drw_cells_and_flag :
    (∀ r c, (UnderSprite s n.toNat (s.reg x).toNat (s.reg y).toNat r c → t.cell r c = !s.cell r c) ∧
      (¬ UnderSprite s n.toNat (s.reg x).toNat (s.reg y).toNat r c → t.cell r c = s.cell r c)) ∧
    (t.reg flagReg = 1 ↔
      ∃ r c, UnderSprite s n.toNat (s.reg x).toNat (s.reg y).toNat r c ∧ s.cell r c = true) := by
  obtain ⟨-, rfl⟩ := exec_drw_next h
  have rows_le : (Memory.readList s.mem s.idx.toNat n.toNat).length ≤ 32 := by
    rw [Memory.readList_length]
    omega
  obtain ⟨cells, flag⟩ := drawSprite_spec _ (s.reg x).toNat (s.reg y).toNat s.fb rows_le
  simp only [rowHit_readList] at cells flag
  refine ⟨fun r c => ?_, ?_⟩
  · rw [drawAt, State.setFlag_cell, State.setFbChanged_cell, State.setFb_cell]
    exact cells r c
  · rw [drawAt, State.setFlag_reg, if_pos rfl]
    exact (flagByte_eq_one _).trans flag

/-- A draw moves no sprite: a cell is under the sprite after it exactly when it was before. -/
theorem exec_drw_underSprite_iff (m px py : Nat) (r : Fin 32) (c : Fin 64) :
    UnderSprite t m px py r c ↔ UnderSprite s m px py r c := by
  have hbyte : ∀ a, t.byte a = s.byte a := instructionsChangeOnlyTheirParts _ s t h .mem (by simp [mayChange])
  simp only [UnderSprite, exec_drw_idx h, hbyte]

end

/-- Settles O53: inside memory the draw completes and its cells, its flag and its frame are read off; outside, the bounds check
fails. -/
theorem drawSpriteCompletesOrFaults : Obligations.DrawSpriteCompletesOrFaults := by
  intro x y n s
  refine ⟨fun inside => ?_, fun ⟨hn, outside⟩ => ?_⟩
  · have hx := (exec_drw x y n s).trans
      (guardRange_of_inside _ (inside.imp_left fun hn => by rw [hn]; rfl))
    obtain ⟨cells, flag⟩ := exec_drw_cells_and_flag hx
    exact ⟨_, hx, cells, exec_drw_fbChanged hx, flagWritersLeaveZeroOrOne _ s _ hx rfl, flag,
      fun r hr => instructionsKeepEveryOtherRegister _ s _ r hx (beq_false_of_ne hr),
      (exec_writesOnly hx).changesOnly⟩
  · have hrows : 0 < n.toNat := Nat.pos_of_ne_zero fun h0 => hn (BitVec.eq_of_toNat_eq h0)
    exact (exec_drw x y n s).trans (guardRange_of_outside _ hrows outside)

/-! ### Drawing twice -/

/-- Settles O54: the second draw has the same sprite at the same place, so it flips back each cell the first one flipped; a cell
under the sprite holds 1 between the two exactly when it held 0 before. -/
theorem drawingTwiceRestoresTheFramebuffer : Obligations.DrawingTwiceRestoresTheFramebuffer := by
  intro x y n s t p h hx hy
  obtain ⟨inside, -⟩ := exec_drw_next h
  obtain ⟨cells, flag⟩ := exec_drw_cells_and_flag h
  have hu := (exec_drw x y n (t.setPc p)).trans (guardRange_of_inside _ (by rwa [State.setPc_idx, exec_drw_idx h]))
  have under (r : Fin 32) (c : Fin 64) :
      UnderSprite (t.setPc p) n.toNat ((t.setPc p).reg x).toNat ((t.setPc p).reg y).toNat r c ↔
        UnderSprite s n.toNat (s.reg x).toNat (s.reg y).toNat r c := by
    rw [State.setPc_reg, State.setPc_reg, hx, hy]
    exact exec_drw_underSprite_iff h _ _ _ r c
  obtain ⟨cells', flag'⟩ := exec_drw_cells_and_flag hu
  simp only [under, State.setPc_cell] at cells' flag'
  refine ⟨flag, _, hu, fun r c => ?_, flag'.trans ?_⟩
  · by_cases hit : UnderSprite s n.toNat (s.reg x).toNat (s.reg y).toNat r c
    · rw [(cells' r c).1 hit, (cells r c).1 hit, Bool.not_not]
    · rw [(cells' r c).2 hit, (cells r c).2 hit]
  · refine exists_congr fun r => exists_congr fun c => and_congr_right fun hit => ?_
    rw [(cells r c).1 hit, Bool.not_eq_true']

end Sys2Proof.Machine
end

section
/-! PROOFS. The two key skips and the wait for a key (46_keypad.md). -/

namespace Sys2Proof.Machine

/-! ### The key skips -/

theorem withKey_of_key {x : RegIdx} {s : State} {q : KeyIdx} (k : KeyIdx → Result) (h : (s.reg x).toNat = q.val) :
    withKey x s k = k q := by
  have small : (s.reg x).toNat < 16 := h ▸ q.isLt
  rw [withKey_of_index x s k small]
  exact congrArg k (Fin.ext h)

theorem skipIf_not_pc (s : State) (b : Bool) : (s.skipIf (!b)).pc = if b = true then s.pc else s.pc + 2 := by
  cases b <;> rfl

/-- Settles O47: with a key's index in the register each of the two is a skip, which writes at most `pc`; any larger value is
an error. -/
theorem keySkipsCompleteOrFault : Obligations.KeySkipsCompleteOrFault := by
  intro x s
  have hframe (taken : Bool) : ChangesOnly [.pc] s (s.skipIf taken) := (skipIf_writesOnly s taken).changesOnly
  refine ⟨fun k hk => ⟨?skp, ?sknp⟩, fun large => ?large⟩
  case skp => exact ⟨_, (exec_skp x s).trans (withKey_of_key _ hk), hframe _, State.skipIf_pc s _⟩
  case sknp => exact ⟨_, (exec_sknp x s).trans (withKey_of_key _ hk), hframe _, skipIf_not_pc s _⟩
  case large =>
    have hlarge : ¬ (s.reg x).toNat < 16 := by omega
    exact ⟨(exec_skp x s).trans (withKey_of_large x s _ hlarge), (exec_sknp x s).trans (withKey_of_large x s _ hlarge)⟩

/-! ### The wait -/

theorem exec_ldVxK (x : RegIdx) (s : State) :
    exec (.ldVxK x) s = .next ((s.setLatch (.waiting x)).setPc (s.pc - 2)) := rfl

/-- Settles O48: the writes of the latch and of `pc`. -/
theorem waitForKeyCompletes : Obligations.WaitForKeyCompletes := by
  intro x s
  exact ⟨_, exec_ldVxK x s, rfl, rfl, (exec_writesOnly (exec_ldVxK x s)).changesOnly⟩

/-- A Step that fetches wait-for-key goes back over its own advance, so the latch is all that it writes. -/
theorem step_of_fetches_ldVxK {s : State} {x : RegIdx} (hf : Fetches s (.ldVxK x)) :
    step s = .next (s.setLatch (.waiting x)) := by
  rw [step_of_fetches hf, exec_ldVxK, State.advance_pc, BitVec.add_sub_cancel]
  rfl

theorem step_of_waiting {s : State} {r : RegIdx} (hl : s.latch = .waiting r) : step s = .next s := by
  rw [step, stepOp_of_waiting hl]
  rfl

/-! ### The key press that ends the wait -/

theorem hostOp_press_of_waiting {s : State} {r : RegIdx} (k : KeyIdx) (hl : s.latch = .waiting r) :
    hostOp (.keyEvent k .pressed) (.running s) = .next (.none, .running (resolveWait r k s)) := by
  rw [← keyEvent_pressed_waiting k hl]
  rfl

theorem resolveWait_writesOnly (r : RegIdx) (k : KeyIdx) (s : State) :
    WritesOnly [.keys, .regs, .latch, .pc] s (resolveWait r k s) :=
  (setKey_writesOnly s k true).append
    ((setRegs_writesOnly _ _).append ((setLatch_writesOnly _ .notWaiting).append (setPc_writesOnly _ _)))

theorem resolveWait_reg (r : RegIdx) (k : KeyIdx) (s : State) (q : RegIdx) :
    (resolveWait r k s).reg q = if q = r then BitVec.ofNat 8 k.val else s.reg q :=
  State.setReg_reg (s.setKey k true) r _ q

theorem resolveWait_key (r : RegIdx) (k : KeyIdx) (s : State) (q : KeyIdx) :
    (resolveWait r k s).key q = if q = k then true else s.key q :=
  State.setKey_key s k true q

/-- A key's index fits the register. -/
theorem keyIdx_ofNat_toNat (k : KeyIdx) : (BitVec.ofNat 8 k.val).toNat = k.val := by
  rw [BitVec.toNat_ofNat]
  omega

/-- From a free latch the press leaves it free, so it is no change. -/
theorem resolveWait_changesOnly_of_free {s : State} (r : RegIdx) (k : KeyIdx) (hl : s.latch = .notWaiting) :
    ChangesOnly [.regs, .pc, .keys] s (resolveWait r k s) := fun p hp => by
  by_cases hp' : p = .latch
  · exact hp' ▸ hl.symm
  · exact (resolveWait_writesOnly r k s).changesOnly p (by simp_all)

/-- Settles O49: the wait is the fetching state with its latch set, and the press, which writes the latch whatever it held, acts on
it as it would on that state. -/
theorem keyWaitLastsUntilTheKeyPress : Obligations.KeyWaitLastsUntilTheKeyPress := by
  intro s x k hf
  have ⟨hl, hp, _⟩ := hf
  refine ⟨_, step_of_fetches_ldVxK hf, rfl, (setLatch_writesOnly s _).changesOnly, step_of_waiting rfl, resolveWait x k s,
    hostOp_press_of_waiting k rfl, ?_⟩
  refine ⟨?_, fun r hr => ?_, ?_, fun q hq => ?_, ?_, rfl, resolveWait_changesOnly_of_free x k hl⟩
  · rw [resolveWait_reg, if_pos rfl, keyIdx_ofNat_toNat]
  · rw [resolveWait_reg, if_neg hr]
  · rw [resolveWait_key, if_pos rfl]
  · rw [resolveWait_key, if_neg hq]
  · exact advance_pc_toNat (s := s) (by omega)

end Sys2Proof.Machine
end

section
/-! PROOFS. Reading the delay timer and setting the two timers (47_timers.md). -/

namespace Sys2Proof.Machine

theorem exec_ldVxDt (x : RegIdx) (s : State) : exec (.ldVxDt x) s = .next (s.setReg x s.dt) := rfl

theorem exec_ldDtVx (x : RegIdx) (s : State) : exec (.ldDtVx x) s = .next (s.setDt (s.reg x)) := rfl

theorem exec_ldStVx (x : RegIdx) (s : State) : exec (.ldStVx x) s = .next (s.setSt (s.reg x)) := rfl

/-- Settles O36: one register is written, and the registers are all that the instruction may write. -/
theorem readDelayTimerCompletes : Obligations.ReadDelayTimerCompletes := by
  intro x s
  exact ⟨_, exec_ldVxDt x s, State.setReg_reg s x s.dt, (exec_writesOnly (exec_ldVxDt x s)).changesOnly⟩

/-- Settles O37: each instruction is the write of its own timer. -/
theorem setTimersComplete : Obligations.SetTimersComplete := by
  intro x s
  refine ⟨?delay, ?sound⟩
  case delay => exact ⟨_, exec_ldDtVx x s, State.setDt_dt s _, (exec_writesOnly (exec_ldDtVx x s)).changesOnly⟩
  case sound => exact ⟨_, exec_ldStVx x s, State.setSt_st s _, (exec_writesOnly (exec_ldStVx x s)).changesOnly⟩

end Sys2Proof.Machine
end

section
/-! PROOFS. The Step operation and its errors, the fatal Step in a session, and the load, frame and sound operations
(50_step_and_interfaces.md, 60_exceptions.md). -/

namespace Sys2Proof.Machine

/-! ### The Step operation, case by case -/

/-- Settles O7: the advanced state is the one with `pc` set two further. -/
theorem stepRunsTheDecodedInstruction : Obligations.StepRunsTheDecodedInstruction := fun _ _ => step_of_fetches

/-- Settles O8, with the report and with the outcome of a waiting Step. -/
theorem blockedStepChangesNothing : Obligations.BlockedStepChangesNothing :=
  fun _ _ hl => ⟨stepOp_of_waiting hl, step_of_waiting hl⟩

theorem step_of_fetch_outside {s : State} (hl : s.latch = .notWaiting) (hp : 4095 ≤ s.pc.toNat) :
    step s = .fault (.fetchOutOfRange s.pc) := by
  rw [step, stepOp_of_fetch_outside hl hp]
  rfl

/-- Settles O9: the two branches of the fetch, and the Step that ends with the second. -/
theorem fetchFailsExactlyPastTheLastWord : Obligations.FetchFailsExactlyPastTheLastWord := fun s =>
  ⟨fetch_of_inside s, fetch_of_outside s, fun hl hp => ⟨stepOp_of_fetch_outside hl hp, step_of_fetch_outside hl hp⟩⟩

theorem step_of_unknown {s : State} (hl : s.latch = .notWaiting) (hp : s.pc.toNat ≤ 4094)
    (hd : decodeWord (s.word s.pc.toNat) = none) : step s = .next s.advance := by
  rw [step, stepOp_of_unknown hl hp hd]
  rfl

/-- Settles O10, with the report and with the outcome of a Step at an unknown word. -/
theorem unknownWordOnlyAdvancesPc : Obligations.UnknownWordOnlyAdvancesPc :=
  fun _ hl hp hd => ⟨stepOp_of_unknown hl hp hd, step_of_unknown hl hp hd⟩

/-! ### The errors of a Step -/

theorem EndsAs.eq_fault_iff {r : Result} {o : Option Fault} {e : Fault} (h : EndsAs r o) :
    r = .fault e ↔ o = some e := by
  cases o with
  | none =>
    obtain ⟨t, rfl⟩ := h
    simp
  | some f =>
    obtain rfl : r = .fault f := h
    simp

theorem EndsAs.ne_refused {r : Result} {o : Option Fault} (h : EndsAs r o) (q : Refusal) : r ≠ .refused q := by
  cases o with
  | none =>
    obtain ⟨t, rfl⟩ := h
    simp
  | some f =>
    obtain rfl : r = .fault f := h
    simp

theorem exec_eq_fault_iff {i : Instr} {s : State} {e : Fault} : exec i s = .fault e ↔ handlerError i s = some e :=
  (exec_endsAs i s).eq_fault_iff

theorem step_ne_refused (s : State) (r : Refusal) : step s ≠ .refused r := by
  obtain ⟨q, hl⟩ | ⟨hl, hp⟩ | ⟨hl, hp, hd⟩ | ⟨i, hf⟩ := fetch_cases s
  · simp [step_of_waiting hl]
  · simp [step_of_fetch_outside hl hp]
  · simp [step_of_unknown hl hp hd]
  · rw [step_of_fetches hf]
    exact (exec_endsAs i s.advance).ne_refused r

/-- A Step that faults met a fetch out of range, or an instruction whose own check fails. -/
theorem step_eq_fault {s : State} {e : Fault} (h : step s = .fault e) :
    s.latch = .notWaiting ∧
      ((4095 ≤ s.pc.toNat ∧ e = .fetchOutOfRange s.pc) ∨ ∃ i, Fetches s i ∧ handlerError i s.advance = some e) := by
  obtain ⟨q, hl⟩ | ⟨hl, hp⟩ | ⟨hl, hp, hd⟩ | ⟨i, hf⟩ := fetch_cases s
  · rw [step_of_waiting hl] at h
    cases h
  · rw [step_of_fetch_outside hl hp] at h
    exact ⟨hl, .inl ⟨hp, (Host.Outcome.fault.inj h).symm⟩⟩
  · rw [step_of_unknown hl hp hd] at h
    cases h
  · have ⟨hl, _⟩ := hf
    rw [step_of_fetches hf] at h
    exact ⟨hl, .inr ⟨i, hf, exec_eq_fault_iff.mp h⟩⟩

/-- Settles O12: `step_eq_fault` one way, and the faults of the fetch and of the handler the other. -/
theorem stepFaultsExactlyAsTabled : Obligations.StepFaultsExactlyAsTabled := by
  refine ⟨fun s e => ⟨step_eq_fault, ?_⟩, step_ne_refused⟩
  rintro ⟨hl, ⟨hp, rfl⟩ | ⟨i, hf, he⟩⟩
  · exact step_of_fetch_outside hl hp
  · exact (step_of_fetches hf).trans (exec_eq_fault_iff.mpr he)

/-- The state that a fatal Step leaves is decided by whether the fetch failed. -/
theorem stepOp_eq_fatal {s t : State} {e : Fault} (h : stepOp s = .ok (.fatal e, t)) :
    (4095 ≤ s.pc.toNat ∧ t = s) ∨ (s.pc.toNat ≤ 4094 ∧ t = s.advance) := by
  obtain ⟨q, hl⟩ | ⟨hl, hp⟩ | ⟨hl, hp, hd⟩ | ⟨i, hf⟩ := fetch_cases s
  · rw [stepOp_of_waiting hl] at h
    cases h
  · rw [stepOp_of_fetch_outside hl hp] at h
    cases h
    exact .inl ⟨hp, rfl⟩
  · rw [stepOp_of_unknown hl hp hd] at h
    cases h
  · have ⟨_, hp, _⟩ := hf
    rw [stepOp_of_fetches hf] at h
    cases hx : exec i s.advance with
    | fault f =>
      rw [hx] at h
      cases h
      exact .inr ⟨hp, rfl⟩
    | next u | refused r =>
      rw [hx] at h
      cases h

/-- Settles O13: the two cases of `stepOp_eq_fatal` exclude each other. -/
theorem fatalStepHasNoPartialEffect : Obligations.FatalStepHasNoPartialEffect := by
  intro s t e h
  obtain ⟨hp, rfl⟩ | ⟨hp, rfl⟩ := stepOp_eq_fatal h
  · exact ⟨fun _ => rfl, fun hp' => by omega⟩
  · exact ⟨fun hp' => by omega, fun _ => rfl⟩

/-! ### LoadProgram -/

theorem hostOp_loadProgram_of_fits {b : List Byte} (m : Session) (h : b.length ≤ 3584) :
    hostOp (.loadProgram b) m =
      .next (.loaded, withState m ((sessionState m).setMem (Memory.writeList (sessionState m).mem 0x200 b))) := by
  have hfits : ¬ maxProgram < b.length := Nat.not_lt.mpr h
  simp only [hostOp, loadSession, loadProgram, if_neg hfits, loadBase]

theorem hostOp_loadProgram_of_large {b : List Byte} (m : Session) (h : 3584 < b.length) :
    hostOp (.loadProgram b) m = .next (.loadError .programTooLarge, m) := by
  have hlarge : maxProgram < b.length := h
  simp only [hostOp, loadSession, loadProgram, if_pos hlarge]

/-- Settles O56: a load is the store of one block at 0x200. -/
theorem loadProgramCopiesOrRejects : Obligations.LoadProgramCopiesOrRejects := by
  intro b s
  refine ⟨fun fits => ?fits, fun large => ?large⟩
  case fits =>
    refine ⟨_, hostOp_loadProgram_of_fits (.running s) fits, fun e => hostOp_loadProgram_of_fits (.faulted e s) fits,
      fun j hj => setMem_writeList_byte_add s 0x200 hj, fun a ha => ?_, (setMem_writesOnly s _).changesOnly⟩
    exact setMem_writeList_byte_of_outside s (by omega)
  case large => exact ⟨hostOp_loadProgram_of_large _ large, fun e => hostOp_loadProgram_of_large _ large⟩

/-! ### The fault mark of a session -/

theorem hostOp_step_of_fatal {s t : State} {e : Fault} (h : stepOp s = .ok (.fatal e, t)) :
    hostOp .step (.running s) = .next (.step (.fatal e), .faulted e t) := by
  simp only [hostOp, stepSession, h]

/-- Settles O14: only Step and Reset treat the mark; every other operation puts its state back under it. -/
theorem fatalErrorStopsTheSessionUntilReset : Obligations.FatalErrorStopsTheSessionUntilReset := by
  refine ⟨fun s t e => hostOp_step_of_fatal, fun e s => rfl, fun op e s hstep hreset => ?mark, fun m => rfl⟩
  case mark =>
    cases op with
    | step => exact absurd rfl hstep
    | reset => exact absurd rfl hreset
    | loadProgram b =>
      obtain fits | large := le_or_gt b.length 3584
      · exact ⟨_, _, hostOp_loadProgram_of_fits _ fits⟩
      · exact ⟨_, _, hostOp_loadProgram_of_large _ large⟩
    | timerTick | keyEvent | frameRead | ackFrame | soundRead => exact ⟨_, _, rfl⟩

/-! ### The frame and sound operations -/

/-- Settles O57: two operations hand out what the session holds, and AckFrame is the one write of the flag. -/
theorem frameAndSoundPortsObserve : Obligations.FrameAndSoundPortsObserve := by
  intro m s
  refine ⟨?frame, ?ack, rfl⟩
  case frame => exact ⟨(sessionState m).fb, rfl, fun r c => rfl⟩
  case ack =>
    exact ⟨_, rfl, fun e => rfl, State.setFbChanged_fbChanged s false, (setFbChanged_writesOnly s false).changesOnly⟩

end Sys2Proof.Machine
end
